-- ==== Sys2Proof/Word.lean ====
section
/-! DEFINITION. The widths of the GF2-CRC32 core (`00_scope.md` R4, R7, R9): a polynomial over GF(2) is an
unsigned integer whose bit i is the coefficient of x^i. -/

namespace Sys2Proof

/-- One message byte (`30_encoding.md` R62). -/
abbrev Byte := BitVec 8

/-- A register, a polynomial operand or result, a command word: `W` = 32 bits (R7). -/
abbrev Word := BitVec 32

/-- The generator, the first dividend of INVMOD and its first quotient: `PW` = 33 bits (R7, R9). -/
abbrev Poly33 := BitVec 33

/-- POWMOD's exponent, an ordinary integer of `EXPW` = 64 bits (R7, R23). -/
abbrev Exponent := BitVec 64

end Sys2Proof
end

