-- ==== Sys2Proof/Syntax.lean ====
section
/-! DEFINITION. The commands of the block, one constructor per row of `spec/opcode_table.json`
(`30_encoding.md` R63). Every command's operand and result registers are fixed, so only CRCB carries an operand. -/

namespace Sys2Proof

/-- A legal command word, decoded (R63). -/
inductive Instr where
  /-- NOP (`46_control.md` R118). -/
  | nop
  /-- CLRERR (`46_control.md` R119). -/
  | clrerr
  /-- BITREV (`41_bitrev.md` R91). -/
  | bitrev
  /-- DEG (`44_divrem_deg.md` R107). -/
  | deg
  /-- MULMOD (`42_mulmod.md` R96). -/
  | mulmod
  /-- POWMOD (`43_powmod.md` R101). -/
  | powmod
  /-- DIVREM (`44_divrem_deg.md` R106). -/
  | divrem
  /-- INVMOD (`45_invmod.md` R113). -/
  | invmod
  /-- CRCINIT (`40_crc_digest.md` R82). -/
  | crcinit
  /-- CRCB imm8 (`40_crc_digest.md` R83): one message byte. -/
  | crcb (imm8 : Byte)
  /-- CRCLOAD (`40_crc_digest.md` R84). -/
  | crcload
deriving DecidableEq, Repr

end Sys2Proof
end

