-- ==== Sys2Proof/WellFormed.lean ====
section
/-! DEFINITION. What the spec calls legal: an instruction's operands (`30_encoding.md` R62) and, in the words of
R64, a command word. The decoder is written apart from `legalWord`, so that the two can be compared. -/

namespace Sys2Proof

/-- Every operand is in the range its field admits: CRCB's immediate is a byte, 0 to 255 (R62); the other commands
have no operand field. The type of the operand already ensures it. -/
def Instr.wf : Instr → Bool
  | .nop | .clrerr | .bitrev | .deg | .mulmod | .powmod | .divrem | .invmod | .crcinit | .crcload => true
  | .crcb imm8 => decide (imm8.toNat ≤ 255)

/-- The ten opcode numbers whose `imm8` must be zero (R64). -/
def formatZOpcodes : List Nat := [0x00, 0x01, 0x10, 0x11, 0x20, 0x21, 0x22, 0x23, 0x30, 0x32]

/-- R64's clause on the high half: `w[31:16] = 0`. -/
def highHalfClear (w : Word) : Bool := decide (w.toNat / 65536 = 0)

/-- R64's second clause: `w[7:0] = 0x31`, or `w[15:8] = 0` and `w[7:0]` is a listed opcode. -/
def opcodeListed (w : Word) : Bool :=
  decide (w.toNat % 256 = 0x31) ||
    (decide (w.toNat / 256 % 256 = 0) && decide (w.toNat % 256 ∈ formatZOpcodes))

/-- A command word is legal (R64), said by numbers. -/
def legalWord (w : Word) : Bool := highHalfClear w && opcodeListed w

end Sys2Proof
end

