-- ==== Sys2Proof/Decode.lean ====
section
/-! DEFINITION. The command decoder, total on every 32-bit word and refusing by name, then the encoder, both from the
opcode map of `30_encoding.md` R60, R62, R63. A command is one word delivered by one bus write (R60), so the decoder
takes a word and no bytes. -/

namespace Sys2Proof

/-- Why a word is no command (R64, R65). The block raises ILLCMD for each alike. -/
inductive DecodeError where
  /-- `w[31:16]` is not zero. -/
  | highHalfNonZero
  /-- `w[7:0]` is none of the eleven opcodes. -/
  | unlistedOpcode
  /-- a format Z opcode with a non-zero `imm8`. -/
  | immediateNonZero
deriving DecidableEq, Repr

/-- Field `opcode`, bits 7:0 (R60). -/
def opcodeField (w : Word) : Byte := w.extractLsb' 0 8

/-- Field `imm8`, bits 15:8 (R60, R62): an unsigned byte, used as is. -/
def immField (w : Word) : Byte := w.extractLsb' 8 8

/-- Field `zero`, bits 31:16 (R60). -/
def zeroField (w : Word) : BitVec 16 := w.extractLsb' 16 16

/-- The ten commands of format Z by opcode (R63). -/
def formatZ (op : Byte) : Option Instr :=
  if op = 0x00#8 then some .nop
  else if op = 0x01#8 then some .clrerr
  else if op = 0x10#8 then some .bitrev
  else if op = 0x11#8 then some .deg
  else if op = 0x20#8 then some .mulmod
  else if op = 0x21#8 then some .powmod
  else if op = 0x22#8 then some .divrem
  else if op = 0x23#8 then some .invmod
  else if op = 0x30#8 then some .crcinit
  else if op = 0x32#8 then some .crcload
  else none

/-- The decode function (R63, R64): every word is one command or illegal. -/
def decode (w : Word) : Except DecodeError Instr :=
  if zeroField w ≠ 0#16 then .error .highHalfNonZero
  else if opcodeField w = 0x31#8 then .ok (.crcb (immField w))
  else
    match formatZ (opcodeField w) with
    | none => .error .unlistedOpcode
    | some i => if immField w = 0#8 then .ok i else .error .immediateNonZero

/-- The word of an instruction (R60, R63): `{0x0000, imm8, opcode}`. -/
def encode : Instr → Word
  | .nop => 0x00000000#32
  | .clrerr => 0x00000001#32
  | .bitrev => 0x00000010#32
  | .deg => 0x00000011#32
  | .mulmod => 0x00000020#32
  | .powmod => 0x00000021#32
  | .divrem => 0x00000022#32
  | .invmod => 0x00000023#32
  | .crcinit => 0x00000030#32
  | .crcb imm8 => (imm8.setWidth 32 <<< 8) ||| 0x00000031#32
  | .crcload => 0x00000032#32

/-- `match` and `mask` of the row of R63 that an instruction belongs to. -/
def opcodeRow : Instr → Word × Word
  | .nop => (0x00000000#32, 0xFFFFFFFF#32)
  | .clrerr => (0x00000001#32, 0xFFFFFFFF#32)
  | .bitrev => (0x00000010#32, 0xFFFFFFFF#32)
  | .deg => (0x00000011#32, 0xFFFFFFFF#32)
  | .mulmod => (0x00000020#32, 0xFFFFFFFF#32)
  | .powmod => (0x00000021#32, 0xFFFFFFFF#32)
  | .divrem => (0x00000022#32, 0xFFFFFFFF#32)
  | .invmod => (0x00000023#32, 0xFFFFFFFF#32)
  | .crcinit => (0x00000030#32, 0xFFFFFFFF#32)
  | .crcb _ => (0x00000031#32, 0xFFFF00FF#32)
  | .crcload => (0x00000032#32, 0xFFFFFFFF#32)

/-- `w` selects the row of `i`: `(w and mask) = match` (R63). -/
def selectsRow (w : Word) (i : Instr) : Prop := w &&& (opcodeRow i).2 = (opcodeRow i).1

/-- The command word made of the low `nbits` bits of `w`, every bit above them zero: one word, as the host writes it
to CMD. -/
def tableWord (nbits w : Nat) : Word := BitVec.ofNat 32 (w % 2 ^ nbits)

/-- The instruction the decoder reads from an opcode-table word. -/
def decodeTableWord (nbits w : Nat) : Option Instr :=
  match decode (tableWord nbits w) with
  | .ok i => some i
  | .error _ => none

end Sys2Proof
end

