-- ==== Sys2Proof/Config.lean ====
section
/-! DEFINITION. The parameters of the block (`00_scope.md` R5, R7). They are wired: no command and no bus write
changes them, and they are no part of State. -/

namespace Sys2Proof.Config

/-- `P33`, the generator polynomial in algebraic form, of degree 32 (R5; `90_conflicts.md` C12). -/
def p33 : Poly33 := 0x104C11DB7#33

/-- `G_REFL`, the generator bit-reversed, without its x^32 term (R5). -/
def gRefl : Word := 0xEDB88320#32

/-- `CRC_INIT`, the initial digest register (R7). -/
def crcInit : Word := 0xFFFFFFFF#32

/-- `CRC_XOROUT`, the final inversion mask (R7). -/
def crcXorOut : Word := 0xFFFFFFFF#32

/-- The size of the register window in bytes (R7, `20_memory.md` R40). -/
def windowBytes : Nat := 64

/-- `BASE`, where the window sits in the host's address space: open, a parameter of the model that no rule depends
on (R7, `20_memory.md` R50). It has no body, so no proof can see its value (log 5: DESIGN CHOICE, unsafe). -/
opaque base : Nat

end Sys2Proof.Config
end

