-- ==== Sys2Proof/Machine/Gf2.lean ====
section
/-! DEFINITION. The arithmetic of polynomials over GF(2) on their integer encodings: `deg` (`00_scope.md` R12), `rev32`
(`41_bitrev.md` R90), `mulmod` (`42_mulmod.md` R95), `powmod` (`43_powmod.md` R100), `divrem` (`44_divrem_deg.md` R105)
and `invmod` (`45_invmod.md` R112). Each loop is structural recursion on the bound R157 gives it (log 6: DEDUCED, safe). -/

namespace Sys2Proof.Machine

/-- The highest set bit of `v` below bit `n`, or -1. -/
def degBelow {w : Nat} (v : BitVec w) : Nat → Int
  | 0 => -1
  | n + 1 => if v.getLsbD n then (n : Int) else degBelow v n

/-- Degree: the index of the highest set bit, and -1 for zero (R12, `90_conflicts.md` C10). -/
def deg {w : Nat} (v : BitVec w) : Int := degBelow v w

/-- Bit reversal on `w` bits: bit i of `v` goes to bit `w - 1 - i`. -/
def revBits {w : Nat} (v : BitVec w) : BitVec w :=
  (List.range w).foldl (fun r i => if v.getLsbD i then r ||| (1#w <<< (w - 1 - i)) else r) 0#w

/-- `rev32` (R90). -/
def rev32 (v : Word) : Word := revBits v

/-- `rev8`, the 8 bits of a byte reversed (`40_crc_digest.md` R88, `47_host_forger.md` R124). -/
def rev8 (b : Byte) : Byte := revBits b

/-- The plain carry-less product, kept to `w` bits (`44_divrem_deg.md` R108): the xor of `x << i` over the set bits i
of `y`. -/
def clmul {w : Nat} (x y : BitVec w) : BitVec w :=
  (List.range w).foldl (fun z i => if y.getLsbD i then z ^^^ (x <<< i) else z) 0#w

/-- Doubling with reduction (R95, R98): the doubled value has 33 bits, and the generator is xored in when bit 32 is
set (`90_conflicts.md` C2), which clears it. -/
def double (x : Word) : Word :=
  let d : Poly33 := x.setWidth 33 <<< 1
  (if d.getLsbD 32 then d ^^^ Config.p33 else d).setWidth 32

/-- The loop of R95, at most `n` iterations: `x` doubled, `y` scanned from bit 0 up, `z` the accumulator. -/
def mulmodLoop {w : Nat} : Nat → Word → BitVec w → Word → Word
  | 0, _, _, z => z
  | n + 1, x, y, z =>
    if y = 0#w then z
    else mulmodLoop n (double x) (y >>> 1) (if y.getLsbD 0 then z ^^^ x else z)

/-- `mulmod(x, y)` (R95), for a `y` of any width: `deg(y) + 1` iterations at most (R157). -/
def mulmod {w : Nat} (x : Word) (y : BitVec w) : Word := mulmodLoop w x y 0#32

/-- The loop of R100, at most `n` iterations: exponent bits from bit 0 up, the base squared each time. -/
def powmodLoop : Nat → Word → Exponent → Word → Word
  | 0, _, _, z => z
  | n + 1, b, e, z =>
    if e = 0#64 then z
    else powmodLoop n (mulmod b b) (e >>> 1) (if e.getLsbD 0 then mulmod z b else z)

/-- `powmod(b, e)` (R100). -/
def powmod (b : Word) (e : Exponent) : Word := powmodLoop 64 b e 1#32

/-- The loop of R105 for i from `n - 1` down to 0: where bit `i + dy` of the current `x` is set, `y << i` cancels it
and quotient bit i is set. -/
def divremLoop {w : Nat} (y : BitVec w) (dy : Nat) : Nat → BitVec w → BitVec w → BitVec w × BitVec w
  | 0, x, q => (q, x)
  | i + 1, x, q =>
    if x.getLsbD (i + dy) then divremLoop y dy i (x ^^^ (y <<< i)) (q ||| (1#w <<< i))
    else divremLoop y dy i x q

/-- `divrem(x, y)`, quotient and remainder (R105), for a divisor `y ≠ 0`: the callers test it (R106) or never pass 0
(R114). The degree of `x` is taken once; no iteration where it is below the divisor's. -/
def divrem {w : Nat} (x y : BitVec w) : BitVec w × BitVec w :=
  if x = 0#w then (0#w, 0#w)
  else divremLoop y (deg y).toNat (deg x - deg y + 1).toNat x 0#w

/-- The working values of R112: the pair being divided and the coefficients A·v ≡ X, B·v ≡ Y (mod P33). -/
structure Euclid where
  X : Poly33
  Y : Word
  A : Word
  B : Word
deriving DecidableEq, Repr

/-- The values before the first iteration (R112). -/
def euclidStart (v : Word) : Euclid := { X := Config.p33, Y := v, A := 0#32, B := 1#32 }

/-- One iteration (R112): divide X by Y, `C <- A xor mulmod(B, Q)` with the coefficient as the shifted operand. -/
def euclidStep (e : Euclid) : Euclid :=
  let qr := divrem e.X (e.Y.setWidth 33)
  { X := e.Y.setWidth 33, Y := qr.2.setWidth 32, A := e.B, B := e.A ^^^ mulmod e.B qr.1 }

/-- The loop of R112, at most `n` iterations. -/
def euclidLoop : Nat → Euclid → Euclid
  | 0, e => e
  | n + 1, e => if e.Y = 0#32 then e else euclidLoop n (euclidStep e)

/-- `invmod(v)` (R112): none is the failure `NoInverse`. At most 32 iterations (R114). The comparison X = 1 is made
for every operand (R113). -/
def invmod (v : Word) : Option Word :=
  let e := euclidLoop 32 (euclidStart v)
  if e.X = 1#33 then some e.A else none

end Sys2Proof.Machine
end

