-- ==== Sys2Proof/Machine/State.lean ====
section
/-! DEFINITION. The state of the block (`10_state.md` R20 to R34), the transactions the host presents to it and the
responses it gives (`20_memory.md` R42), and reset. -/

namespace Sys2Proof.Machine

/-- `size` of a transaction: 1, 2 or 4 bytes (R42). -/
inductive AccessSize where
  | one
  | two
  | four
deriving DecidableEq, Repr

/-- One transaction (R42). `off` is the 6-bit byte offset inside the register window. -/
inductive Transaction where
  /-- `RD(off, size)`. -/
  | rd (off : BitVec 6) (size : AccessSize)
  /-- `WR(off, size, data)`. -/
  | wr (off : BitVec 6) (size : AccessSize) (data : Word)
deriving DecidableEq, Repr

/-- What reaches the block from outside, one at a time: a transaction, or the reset input, which acts between two
transactions and never inside one (`70_reset_and_hazards.md` R150, R152). -/
inductive Event where
  | bus (t : Transaction)
  | reset
deriving DecidableEq, Repr

/-- `resp` (R42). -/
inductive Resp where
  | okay
  | error
deriving DecidableEq, Repr

/-- The block's answer to one transaction: `resp`, and `rdata` where the transaction is a read (R42). -/
structure Response where
  resp : Resp
  rdata : Option Word
deriving DecidableEq, Repr

/-- The state: the eight registers of R20, and two fields of the model's own that carry the block's inputs and its
last output (log 1: DESIGN CHOICE, safe; log 2: DESIGN CHOICE, unsafe). -/
structure State where
  /-- first operand (R21) -/
  opa : Word
  /-- second operand (R22) -/
  opb : Word
  /-- exponent bits 31..0 (R23) -/
  expl : Word
  /-- exponent bits 63..32 (R23) -/
  exph : Word
  /-- primary result (R24) -/
  res0 : Word
  /-- secondary result (R25) -/
  res1 : Word
  /-- running CRC-32 register, un-inverted (R26) -/
  crcstate : Word
  /-- fault code, 0 where no fault is recorded (R28) -/
  err : BitVec 4
  /-- the events the host has yet to present, oldest first (the model's own) -/
  pending : List Event
  /-- the answer to the last transaction (the model's own) -/
  response : Option Response
deriving DecidableEq, Repr

/-- Reasons for the machine to stop: none. The block's step is total (`00_scope.md` R3); DIV0, NOINV, ILLCMD, access
errors and lockout refusals all leave a next state (log 7: DEDUCED, safe), and the block has no halt state (R158). Safe: nothing is
hidden behind a stop. -/
inductive Fault
deriving DecidableEq, Repr

/-- Reasons to refuse an instruction. -/
inductive Refusal where
  /-- Raised by an arm of `exec` whose instruction has no meaning yet, and by no arm now. Safe: a claim about a next
  state says nothing of it. -/
  | notModelled (mnemonic : String)
deriving DecidableEq, Repr

/-- The result of one step. -/
abbrev Result := Host.Outcome State Fault Refusal

/-- The state after reset (R34, R150), with nothing presented by the host and no transaction answered yet. -/
def State.reset : State where
  opa := 0x00000000#32
  opb := 0x00000000#32
  expl := 0x00000000#32
  exph := 0x00000000#32
  res0 := 0x00000000#32
  res1 := 0x00000000#32
  crcstate := 0xFFFFFFFF#32
  err := 0#4
  pending := []
  response := none

end Sys2Proof.Machine
end

