-- ==== Sys2Proof/Machine/Flags.lean ====
section
/-! DEFINITION. The block's only status, ERR (`10_state.md` R28, R31): it has no condition codes. The fault codes
(`60_exceptions.md` R130), the STATUS word and the lockout test (R135). -/

namespace Sys2Proof.Machine

/-- The three faults of the block (R130). -/
inductive FaultCode where
  /-- DIVREM with `OPB = 0` (R131). -/
  | div0
  /-- INVMOD of a value with no inverse (R132). -/
  | noinv
  /-- a command word that is not a legal command (R133). -/
  | illcmd
deriving DecidableEq, Repr

/-- The number ERR holds for a fault (R130). -/
def faultNumber : FaultCode → BitVec 4
  | .div0 => 1#4
  | .noinv => 2#4
  | .illcmd => 3#4

/-- Lockout: `ERR ≠ 0` (R135). -/
def State.locked (s : State) : Bool := decide (s.err ≠ 0#4)

/-- The STATUS word, `zext_32(ERR)`: bits 31:4 read as 0 (R28, `20_memory.md` R41). -/
def State.statusWord (s : State) : Word := s.err.setWidth 32

end Sys2Proof.Machine
end

