-- ==== Sys2Proof/Machine/Operands.lean ====
section
/-! DEFINITION. Where operands come from: the register map of the window (`20_memory.md` R41), what each slot reads as
(R41, R45), the byte view of the window (R47), and the 64-bit exponent (`10_state.md` R23, `30_encoding.md` R62). -/

namespace Sys2Proof.Machine

/-- The named slots of the window (R41). -/
inductive Slot where
  | cmd
  | status
  | opa
  | opb
  | expl
  | exph
  | res0
  | res1
  | crcstate
  | crcdigest
deriving DecidableEq, Repr

/-- The offset of a slot (R41). -/
def slotOffset : Slot → BitVec 6
  | .cmd => 0x00#6
  | .status => 0x04#6
  | .opa => 0x08#6
  | .opb => 0x0C#6
  | .expl => 0x10#6
  | .exph => 0x14#6
  | .res0 => 0x18#6
  | .res1 => 0x1C#6
  | .crcstate => 0x20#6
  | .crcdigest => 0x24#6

/-- The slot at an offset; none for the reserved slots `0x28` to `0x3C` and for an offset that is no word's (R41). -/
def slotAt (off : BitVec 6) : Option Slot :=
  if off = 0x00#6 then some .cmd
  else if off = 0x04#6 then some .status
  else if off = 0x08#6 then some .opa
  else if off = 0x0C#6 then some .opb
  else if off = 0x10#6 then some .expl
  else if off = 0x14#6 then some .exph
  else if off = 0x18#6 then some .res0
  else if off = 0x1C#6 then some .res1
  else if off = 0x20#6 then some .crcstate
  else if off = 0x24#6 then some .crcdigest
  else none

/-- The CRCDIGEST view: `CRCSTATE xor 0xFFFFFFFF` (`10_state.md` R27, `40_crc_digest.md` R85). -/
def State.crcdigest (s : State) : Word := s.crcstate ^^^ Config.crcXorOut

/-- What a read of a slot returns (R41, R45); none for the write-only CMD (R44). -/
def State.readSlot (s : State) : Slot → Option Word
  | .cmd => none
  | .status => some s.statusWord
  | .opa => some s.opa
  | .opb => some s.opb
  | .expl => some s.expl
  | .exph => some s.exph
  | .res0 => some s.res0
  | .res1 => some s.res1
  | .crcstate => some s.crcstate
  | .crcdigest => some s.crcdigest

/-- `size = 4` and `off[1:0] = 0`: a whole aligned word (R43). -/
def wholeWord (off : BitVec 6) (size : AccessSize) : Bool :=
  decide (size = .four) && decide (off.extractLsb' 0 2 = 0#2)

/-- Byte `a` of the window, little-endian: byte `off + k` names bits `8k+7 : 8k` of the register at `off` (R47). None
where no register can be read. The block answers no access narrower than a word (R43), so this is a view for stating
what a transaction leaves unchanged, and no transaction returns it. -/
def State.windowByte (s : State) (a : BitVec 6) : Option Byte :=
  ((slotAt (a &&& 0x3C#6)).bind s.readSlot).map fun v => v.extractLsb' (8 * (a.toNat % 4)) 8

/-- `EXP = {EXPH, EXPL}` (R23). -/
def State.exponent (s : State) : Exponent := s.exph ++ s.expl

end Sys2Proof.Machine
end

