-- ==== Sys2Proof/Machine/Ops.lean ====
section
/-! DEFINITION. The named operations over the registers, fault entry and its return beside it
(`60_exceptions.md` R137, R139), and the forms in which a transaction ends (`20_memory.md` R43 to R46). -/

namespace Sys2Proof.Machine

def State.setOpa (s : State) (v : Word) : State := { s with opa := v }
def State.setOpb (s : State) (v : Word) : State := { s with opb := v }
def State.setExpl (s : State) (v : Word) : State := { s with expl := v }
def State.setExph (s : State) (v : Word) : State := { s with exph := v }
def State.setRes0 (s : State) (v : Word) : State := { s with res0 := v }
def State.setRes1 (s : State) (v : Word) : State := { s with res1 := v }
def State.setCrcstate (s : State) (v : Word) : State := { s with crcstate := v }
def State.setErr (s : State) (v : BitVec 4) : State := { s with err := v }
def State.setPending (s : State) (es : List Event) : State := { s with pending := es }
def State.setResponse (s : State) (r : Option Response) : State := { s with response := r }

/-- The answer to a write (R42: `rdata` belongs to reads). -/
def writeResponse (r : Resp) : Option Response := some { resp := r, rdata := none }

/-- The answer to a read (R42). -/
def readResponse (r : Resp) (v : Word) : Option Response := some { resp := r, rdata := some v }

/-- A write or command that is done: `resp <- OKAY` (R46). -/
def complete (s : State) : Result := .next (s.setResponse (writeResponse .okay))

/-- A write that is turned away: `resp <- ERROR` and nothing else, for an access error (R43, R44) and for a refusal in
lockout (`60_exceptions.md` R135). -/
def turnAway (s : State) : Result := .next (s.setResponse (writeResponse .error))

/-- An accepted read: `resp <- OKAY`, `rdata` the value, no other change (R45). -/
def answerRead (v : Word) (s : State) : Result := .next (s.setResponse (readResponse .okay v))

/-- A read that is an access error: `resp <- ERROR`, `rdata <- 0x00000000`, no other change (R43, R44, R134). -/
def turnAwayRead (s : State) : Result := .next (s.setResponse (readResponse .error 0#32))

/-- Fault entry (R137): `ERR <- code`, `resp <- ERROR`, no other state written; no mode, mask, vector or transfer of
control. -/
def raiseFault (c : FaultCode) (s : State) : Result :=
  .next ((s.setErr (faultNumber c)).setResponse (writeResponse .error))

/-- Fault return (R139): `ERR <- 0`, nothing else restored. -/
def returnFromFault (s : State) : State := s.setErr 0#4

/-- A command other than CLRERR: refused in lockout, else `body` (R135, `30_encoding.md` R69). -/
def unlessLocked (s : State) (body : State → Result) : Result :=
  if s.locked then turnAway s else body s

/-- The command step on an illegal word: refused in lockout, else ILLCMD (R69, R133). -/
def illegalCommand (s : State) : Result := unlessLocked s (raiseFault .illcmd)

/-- The reset event (`70_reset_and_hazards.md` R150, R152): every piece of the block's state takes its reset value.
What the host has yet to present is the host's and stays; no transaction has been answered since reset (log 8:
DEDUCED, safe). -/
def resetBlock (s : State) : State := State.reset.setPending s.pending

end Sys2Proof.Machine
end

