-- ==== Sys2Proof/Machine/Bits.lean ====
section
/-! DEFINITION. The commands BITREV (`41_bitrev.md`) and DEG (`44_divrem_deg.md`). -/

namespace Sys2Proof.Machine

/-- BITREV (R91): `RES0 <- rev32(OPA)`. -/
def execBitrev (s : State) : Result := unlessLocked s fun s => complete (s.setRes0 (rev32 s.opa))

/-- DEG's visible result (R107): the degree as an integer, and `0xFFFFFFFF` for zero, where it does not fault
(`90_conflicts.md` C10). -/
def degWord (v : Word) : Word := if v ≠ 0#32 then BitVec.ofNat 32 (deg v).toNat else 0xFFFFFFFF#32

/-- DEG (R107). -/
def execDeg (s : State) : Result := unlessLocked s fun s => complete (s.setRes0 (degWord s.opa))

end Sys2Proof.Machine
end

