-- ==== Sys2Proof/Machine/Control.lean ====
section
/-! DEFINITION. The housekeeping commands NOP and CLRERR (`46_control.md`). -/

namespace Sys2Proof.Machine

/-- NOP (R118): no state change; refused in lockout like every command but CLRERR. -/
def execNop (s : State) : Result := unlessLocked s complete

/-- CLRERR (R119): fault return, accepted in every state. -/
def execClrerr (s : State) : Result := complete (returnFromFault s)

end Sys2Proof.Machine
end

