-- ==== Sys2Proof/Machine/Crc.lean ====
section
/-! DEFINITION. The functions of the digest engine (`40_crc_digest.md` R80, R81), in the conventional (bit-reversed)
representation. -/

namespace Sys2Proof.Machine

/-- One inner step (R80): a logical shift right, and the reflected generator xored in if the low bit was set. -/
def crcShift (s : Word) : Word :=
  if s.getLsbD 0 then (s >>> 1) ^^^ Config.gRefl else s >>> 1

/-- `n` inner steps. -/
def crcShifts : Nat → Word → Word
  | 0, s => s
  | n + 1, s => crcShifts n (crcShift s)

/-- `crc_step(s, b)` (R80; `92_eei_decisions.md` D25): the byte enters the low 8 bits, then 8 inner steps. -/
def crcStep (s : Word) (b : Byte) : Word := crcShifts 8 (s ^^^ b.setWidth 32)

/-- `crc_bytes(s, m)` (R81). -/
def crcBytes (s : Word) (m : List Byte) : Word := m.foldl crcStep s

/-- `digest(m)` (R81). -/
def digest (m : List Byte) : Word := crcBytes Config.crcInit m ^^^ Config.crcXorOut

end Sys2Proof.Machine
end

