-- ==== Sys2Proof/Machine/Digest.lean ====
section
/-! DEFINITION. The digest commands CRCINIT, CRCB and CRCLOAD (`40_crc_digest.md`). -/

namespace Sys2Proof.Machine

/-- CRCINIT (R82): `CRCSTATE <- 0xFFFFFFFF`. -/
def execCrcinit (s : State) : Result := unlessLocked s fun s => complete (s.setCrcstate Config.crcInit)

/-- CRCB imm8 (R83): `CRCSTATE <- crc_step(CRCSTATE, imm8)`. -/
def execCrcb (imm8 : Byte) (s : State) : Result :=
  unlessLocked s fun s => complete (s.setCrcstate (crcStep s.crcstate imm8))

/-- CRCLOAD (R84): `CRCSTATE <- OPA xor 0xFFFFFFFF`; OPA holds a finalised digest. -/
def execCrcload (s : State) : Result :=
  unlessLocked s fun s => complete (s.setCrcstate (s.opa ^^^ Config.crcXorOut))

end Sys2Proof.Machine
end

