-- ==== Sys2Proof/Machine/Modular.lean ====
section
/-! DEFINITION. The arithmetic commands MULMOD (`42_mulmod.md`), POWMOD (`43_powmod.md`), DIVREM
(`44_divrem_deg.md`) and INVMOD (`45_invmod.md`). -/

namespace Sys2Proof.Machine

/-- MULMOD (R96): `RES0 <- mulmod(OPA, OPB)`. -/
def execMulmod (s : State) : Result := unlessLocked s fun s => complete (s.setRes0 (mulmod s.opa s.opb))

/-- POWMOD (R101): `RES0 <- powmod(OPA, {EXPH, EXPL})`. -/
def execPowmod (s : State) : Result := unlessLocked s fun s => complete (s.setRes0 (powmod s.opa s.exponent))

/-- DIVREM (R106): DIV0 when `OPB = 0`, whatever OPA is; else quotient to RES0 and remainder to RES1. -/
def execDivrem (s : State) : Result :=
  unlessLocked s fun s =>
    if s.opb = 0#32 then raiseFault .div0 s
    else complete ((s.setRes0 (divrem s.opa s.opb).1).setRes1 (divrem s.opa s.opb).2)

/-- INVMOD (R113): NOINV when the Euclidean loop fails; else the inverse to RES0. -/
def execInvmod (s : State) : Result :=
  unlessLocked s fun s =>
    match invmod s.opa with
    | none => raiseFault .noinv s
    | some r => complete (s.setRes0 r)

end Sys2Proof.Machine
end

