-- ==== Sys2Proof/Machine/Dispatch.lean ====
section
/-! DEFINITION. One arm per command (`30_encoding.md` R63, R69): the command written to CMD, executed in the state of
that moment (R55). -/

namespace Sys2Proof.Machine

def exec (i : Instr) (s : State) : Host.Outcome State Fault Refusal :=
  match i with
  | .nop => Sys2Proof.Machine.execNop s
  | .clrerr => Sys2Proof.Machine.execClrerr s
  | .bitrev => Sys2Proof.Machine.execBitrev s
  | .deg => Sys2Proof.Machine.execDeg s
  | .mulmod => Sys2Proof.Machine.execMulmod s
  | .powmod => Sys2Proof.Machine.execPowmod s
  | .divrem => Sys2Proof.Machine.execDivrem s
  | .invmod => Sys2Proof.Machine.execInvmod s
  | .crcinit => Sys2Proof.Machine.execCrcinit s
  | .crcb imm8 => Sys2Proof.Machine.execCrcb imm8 s
  | .crcload => Sys2Proof.Machine.execCrcload s

end Sys2Proof.Machine
end

