-- ==== Sys2Proof/Machine/Bus.lean ====
section
/-! DEFINITION. One transaction or reset, taken by the block (`20_memory.md` R42 to R46, `30_encoding.md` R69), with
the checks in the order of `60_exceptions.md` R136. -/

namespace Sys2Proof.Machine

/-- `RD(off, size)`: size and alignment (R43), then mapping and right (R44), then the value (R45). -/
def readTransaction (off : BitVec 6) (size : AccessSize) (s : State) : Result :=
  if wholeWord off size then
    match (slotAt off).bind s.readSlot with
    | none => turnAwayRead s
    | some v => answerRead v s
  else turnAwayRead s

/-- The command step (R69): the word is decoded and executed within this transaction, and nothing of it is kept
(`10_state.md` R29). Each command but CLRERR, and the illegal word, tests lockout first, so that lockout comes before
legality as R136 orders (log 3: DEDUCED, safe). -/
def commandWrite (w : Word) (s : State) : Result :=
  match decode w with
  | .ok i => exec i s
  | .error _ => illegalCommand s

/-- A write to a slot (R41, R44, R46). -/
def writeSlot (d : Word) (s : State) : Slot → Result
  | .cmd => commandWrite d s
  | .opa => complete (s.setOpa d)
  | .opb => complete (s.setOpb d)
  | .expl => complete (s.setExpl d)
  | .exph => complete (s.setExph d)
  | .status | .res0 | .res1 | .crcstate | .crcdigest => turnAway s

/-- `WR(off, size, data)`: size and alignment (R43), then mapping and right (R44), then the effect (R46). -/
def writeTransaction (off : BitVec 6) (size : AccessSize) (d : Word) (s : State) : Result :=
  if wholeWord off size then
    match slotAt off with
    | none => turnAway s
    | some r => writeSlot d s r
  else turnAway s

/-- One transaction, atomic and complete (R49). -/
def transact : Transaction → State → Result
  | .rd off size, s => readTransaction off size s
  | .wr off size d, s => writeTransaction off size d s

/-- One event from outside. -/
def handle : Event → State → Result
  | .bus t, s => transact t s
  | .reset, s => .next (resetBlock s)

/-- The events in order, each seeing the state the earlier ones left (R52: a left fold). -/
def handleAll : List Event → State → Result
  | [], s => .next s
  | e :: es, s =>
    match handle e s with
    | .next t => handleAll es t
    | .fault f => .fault f
    | .refused r => .refused r

/-- With no transaction presented the block keeps its state (`70_reset_and_hazards.md` R158). -/
def idle (s : State) : Result := .next s

/-- The write that hands a command word to the block: `WR CMD, w` (R46). -/
def commandEvent (w : Word) : Event := .bus (.wr (slotOffset .cmd) .four w)

end Sys2Proof.Machine
end

