-- ==== Sys2Proof/Machine/Step.lean ====
section
/-! DEFINITION. One step of the block: the next event of the host's list (R42, R52), or idle. -/

namespace Sys2Proof.Machine

/-- One step (R42, R49): the oldest event is taken, its whole effect performed, its response given. -/
def step (s : State) : Host.Outcome State Fault Refusal :=
  match s.pending with
  | [] => idle s
  | e :: es => handle e (s.setPending es)

/-- `s` with the command word of an opcode-table row presented next, as `WR CMD, w` (R60; log 13: DESIGN CHOICE, safe). -/
def State.withFetchWord (s : State) (nbits w : Nat) : State :=
  s.setPending (commandEvent (tableWord nbits w) :: s.pending)

end Sys2Proof.Machine
end

