-- ==== Sys2Proof/Machine/Listing.lean ====
section
/-! DEFINITION. The host's side of the window: addresses (`20_memory.md` R42, R50; MemRead and MemWrite of
`00_scope.md` section 8) and the lines and pseudo-commands of a host sequence (`30_encoding.md` R67, R68). -/

namespace Sys2Proof.Machine

/-- The offset a host address names inside the window, if the window holds it; any other address is the platform's
and never reaches the block (R42, R50; log 5: DESIGN CHOICE, unsafe). -/
def windowOffset (addr : Nat) : Option (BitVec 6) :=
  if Config.base ≤ addr ∧ addr < Config.base + Config.windowBytes then some (BitVec.ofNat 6 (addr - Config.base))
  else none

/-- `MemRead(addr, n)` as a transaction of the block. -/
def memRead (addr : Nat) (size : AccessSize) : Option Transaction :=
  (windowOffset addr).map fun off => .rd off size

/-- `MemWrite(addr, n, v)` as a transaction of the block. -/
def memWrite (addr : Nat) (size : AccessSize) (v : Word) : Option Transaction :=
  (windowOffset addr).map fun off => .wr off size v

/-- One line of a host sequence (R67): a register write, a register read, or a command. -/
inductive Line where
  | write (r : Slot) (v : Word)
  | read (r : Slot)
  | command (i : Instr)
deriving DecidableEq, Repr

/-- The transaction of a line (R67). -/
def lineTransaction : Line → Transaction
  | .write r v => .wr (slotOffset r) .four v
  | .read r => .rd (slotOffset r) .four
  | .command i => .wr (slotOffset .cmd) .four (encode i)

/-- The pseudo-commands (R68). A character of CRCSTR is its 7-bit ASCII code. -/
inductive Pseudo where
  | setexp (v : Exponent)
  | crcbytes (m : List Byte)
  | crcstr (text : List (BitVec 7))
  | crcresume (v : Word)
  | toalg
  | toconv
  | mul (x y : Word)
  | pow (b : Word) (e : Exponent)
  | div (x y : Word)
  | inv (v : Word)
deriving DecidableEq, Repr

/-- `SETEXP v`: both halves of the exponent (R68). -/
def setExpLines (v : Exponent) : List Line :=
  [.write .expl (v.extractLsb' 0 32), .write .exph (v.extractLsb' 32 32)]

/-- `CRCBYTES m`: one CRCB a byte, in order (R68). -/
def crcByteLines (m : List Byte) : List Line := m.map fun b => .command (.crcb b)

/-- The lines a pseudo-command stands for (R68). -/
def expand : Pseudo → List Line
  | .setexp v => setExpLines v
  | .crcbytes m => crcByteLines m
  | .crcstr text => crcByteLines (text.map fun c => c.setWidth 8)
  | .crcresume v => [.write .opa v, .command .crcload]
  | .toalg => [.command .bitrev]
  | .toconv => [.command .bitrev]
  | .mul x y => [.write .opa x, .write .opb y, .command .mulmod]
  | .pow b e => .write .opa b :: (setExpLines e ++ [.command .powmod])
  | .div x y => [.write .opa x, .write .opb y, .command .divrem]
  | .inv v => [.write .opa v, .command .invmod]

/-- The events of a host sequence. -/
def lineEvents (ls : List Line) : List Event := ls.map fun l => .bus (lineTransaction l)

end Sys2Proof.Machine
end

