-- ==== Sys2Proof/Machine/Forger.lean ====
section
/-! DEFINITION. Host software of `47_host_forger.md`: the CRC-32 forger (R122 to R126) as a sequence of transactions on
the block, and the text form of a checksum (R121). It adds nothing to the block: each transaction is taken by
`transact`. The file is a list of bytes that holds still (log 9: DESIGN CHOICE, unsafe). -/

namespace Sys2Proof.Machine

/-- Why a forge stops (R125). -/
inductive ForgeFailure where
  /-- `offset + 4 > length`: OffsetOutOfRange, also called RangeError (`90_conflicts.md` C6). -/
  | offsetOutOfRange
  /-- fewer than 4 bytes readable at the offset (step 7). -/
  | shortRead
  /-- the block answered INVMOD with ERROR: ArithmeticPrecondition (`60_exceptions.md` R148). -/
  | arithmeticPrecondition
  /-- the digest after the write is not the one desired (step 10). -/
  | verificationFailed
  /-- the block answered another transaction with ERROR, because it was locked out at the start (log 9: DESIGN CHOICE,
  unsafe). -/
  | blockError
deriving DecidableEq, Repr

/-- A host at work: the block, and the lines the host has issued so far, oldest first. The lines are the host's own
record and no state of the block; nothing reads them (log 9: DESIGN CHOICE, unsafe). -/
structure Session where
  block : State
  issued : List Line
deriving DecidableEq, Repr

/-- The session after one more line, which left the block at `t`. -/
def Session.after (h : Session) (l : Line) (t : State) : Session := { block := t, issued := h.issued ++ [l] }

/-- A host sequence so far: its value and the session, or the failure and the session. -/
abbrev HostRun (α : Type) := Except (ForgeFailure × Session) (α × Session)

/-- The next part of a host sequence, run if the part before it met no ERROR. -/
def andThen {α β : Type} (r : HostRun α) (f : α → Session → HostRun β) : HostRun β :=
  match r with
  | .ok (v, h) => f v h
  | .error e => .error e

/-- The host issues one line and looks at the response (`70_reset_and_hazards.md` R155 item 4). -/
def issue (l : Line) (h : Session) : HostRun (Option Word) :=
  match transact (lineTransaction l) h.block with
  | .next t =>
    match t.response with
    | some { resp := .okay, rdata := v } => .ok (v, h.after l t)
    | _ => .error (.blockError, h.after l t)
  | .fault _ => .error (.blockError, h)
  | .refused _ => .error (.blockError, h)

/-- The host issues lines in order, up to the first that is answered ERROR. -/
def issueAll : List Line → Session → HostRun Unit
  | [], h => .ok ((), h)
  | l :: ls, h => andThen (issue l h) fun _ k => issueAll ls k

/-- The host reads a register. -/
def fetch (r : Slot) (h : Session) : HostRun Word :=
  match issue (.read r) h with
  | .ok (some v, k) => .ok (v, k)
  | .ok (none, k) => .error (.blockError, k)
  | .error e => .error e

/-- Lines, then a read of a register. -/
def issueThenFetch (ls : List Line) (r : Slot) (h : Session) : HostRun Word :=
  andThen (issueAll ls h) fun _ k => fetch r k

/-- The digest of a whole store (R123 step 2): CRCINIT, one CRCB a byte, RD CRCDIGEST. -/
def storeDigest (store : List Byte) : Session → HostRun Word :=
  issueThenFetch (.command .crcinit :: crcByteLines store) .crcdigest

/-- One BITREV of a value (R120). -/
def bitrevOf (v : Word) : Session → HostRun Word := issueThenFetch [.write .opa v, .command .bitrev] .res0

/-- `s = (L − o) * 8` (R123 step 4) as an exponent of the block. A count of 2^64 bits or more is reduced modulo
2^32 − 1, as `92_eei_decisions.md` D8 lets a host do (log 10: DEDUCED, safe). -/
def forgeExponent (len o : Nat) : Exponent :=
  let n := (len - o) * 8
  BitVec.ofNat 64 (if n < 2 ^ 64 then n else n % (2 ^ 32 - 1))

/-- INVMOD of `p` (R123 step 5); an ERROR is ArithmeticPrecondition (R125). -/
def inverseOf (p : Word) (h : Session) : HostRun Word :=
  match issueThenFetch (expand (.inv p)) .res0 h with
  | .ok r => .ok r
  | .error (_, k) => .error (.arithmeticPrecondition, k)

/-- Steps 2 to 6 (R123): `delta'`, from the store's digest and the desired checksum `T` in conventional form. -/
def forgeDelta (store : List Byte) (o : Nat) (T : Word) (h0 : Session) : HostRun Word :=
  andThen (storeDigest store h0) fun c h1 =>
  andThen (bitrevOf c h1) fun crc h2 =>
  andThen (bitrevOf T h2) fun desired h3 =>
  andThen (issueThenFetch (expand (.pow 2#32 (forgeExponent store.length o))) .res0 h3) fun p h4 =>
  andThen (inverseOf p h4) fun f h5 =>
  issueThenFetch (expand (.mul f (crc ^^^ desired))) .res0 h5

/-- The i-th patch byte of `delta'`, for i from 0 to 3: its i-th byte from the most significant end, the 8 bits
reversed (R124, first form; `90_conflicts.md` C5). -/
def patchByte (delta : Word) (i : Nat) : Byte := rev8 (delta.extractLsb' (24 - 8 * i) 8)

/-- The i-th patch byte as the host takes it from RES0, once one BITREV has reversed `delta'`: `RES0[8i+7 : 8i]`
(R124, second form). -/
def patchByteOfRes0 (reversed : Word) (i : Nat) : Byte := reversed.extractLsb' (8 * i) 8

/-- Step 8 (R123, R124): four bytes xored with the four patch bytes, taken from `rev32(delta')`. -/
def patchBytes (reversed : Word) (old : List Byte) : List Byte :=
  old.mapIdx fun i b => b ^^^ patchByteOfRes0 reversed i

/-- Step 9: the bytes at `o` written back. -/
def writeBytes (store : List Byte) (o : Nat) (bs : List Byte) : List Byte :=
  store.take o ++ bs ++ store.drop (o + bs.length)

/-- How a forge ended: the store, the block, the lines issued to it in order, and the failure if there was one. -/
structure ForgeEnd where
  store : List Byte
  block : State
  issued : List Line
  failure : Option ForgeFailure
deriving DecidableEq, Repr

/-- A forge that ends with a store, where the host's session stands. -/
def Session.endsWith (h : Session) (store : List Byte) (failure : Option ForgeFailure) : ForgeEnd :=
  { store := store, block := h.block, issued := h.issued, failure := failure }

/-- `forge_crc32` (R122, R123), the ten steps in order. On the block these are two passes of one CRCB a byte, three
BITREV (the digest, `T`, and `delta'` for the patch bytes), one POWMOD, one INVMOD and one MULMOD (R128).
`restore` says whether a failed verification puts the four old bytes back; false is the document's own behaviour (R126,
`93_implementation_defined.md` U4). -/
def forge (restore : Bool) (store : List Byte) (o : Nat) (T : Word) (s : State) : ForgeEnd :=
  let h0 : Session := { block := s, issued := [] }
  if o + 4 > store.length then h0.endsWith store (some .offsetOutOfRange)
  else
    match forgeDelta store o T h0 with
    | .error (e, h1) => h1.endsWith store (some e)
    | .ok (delta, h1) =>
      let old := (store.drop o).take 4
      if old.length < 4 then h1.endsWith store (some .shortRead)
      else
        match bitrevOf delta h1 with
        | .error (e, h2) => h2.endsWith store (some e)
        | .ok (reversed, h2) =>
          let new := writeBytes store o (patchBytes reversed old)
          match storeDigest new h2 with
          | .error (e, h3) => h3.endsWith new (some e)
          | .ok (c, h3) =>
            if c = T then h3.endsWith new none
            else h3.endsWith (if restore then store else new) (some .verificationFailed)

/-- The value of a hexadecimal digit; the spec says nothing of its case, and both are taken (log 11: DESIGN CHOICE,
unsafe). -/
def hexDigit (c : Char) : Option Nat :=
  if '0' ≤ c ∧ c ≤ '9' then some (c.toNat - 48)
  else if 'A' ≤ c ∧ c ≤ 'F' then some (c.toNat - 55)
  else if 'a' ≤ c ∧ c ≤ 'f' then some (c.toNat - 87)
  else none

/-- The digits from the most significant on, `acc` the value so far. -/
def hexValue : List Char → Nat → Option Nat
  | [], acc => some acc
  | c :: cs, acc => (hexDigit c).bind fun d => hexValue cs (16 * acc + d)

/-- A desired checksum as text (R121): exactly 8 hexadecimal digits, no sign, the first the most significant; the
value is conventional. None is InvalidArgument (R125). -/
def parseChecksum (text : List Char) : Option Word :=
  if text.length = 8 then (hexValue text 0).map fun n => BitVec.ofNat 32 n else none

end Sys2Proof.Machine
end

