-- ==== Sys2Proof/Safety.lean ====
section
/-! DEFINITION. The terms in which claims about runs are made: which states a host can bring about, which fault codes
are legal, and which bytes a run digests. -/

namespace Sys2Proof.Machine

/-- ERR holds a code the block can produce (`60_exceptions.md` R130: 4 to 15 are never produced). -/
def State.errLegal (s : State) : Prop := s.err.toNat ≤ 3

/-- The states that any host can bring the block to: from reset, by steps, with any events presented at any time (the
host may choose them by what it has read, `30_encoding.md` R70). -/
inductive Reachable : State → Prop where
  | reset : Reachable State.reset
  | present (s : State) (es : List Event) : Reachable s → Reachable (s.setPending es)
  | step (s t : State) : Reachable s → step s = .next t → Reachable t

/-- The last transaction was answered OKAY. -/
def State.okay (s : State) : Prop := ∃ v, s.response = some { resp := .okay, rdata := v }

/-- The last transaction was answered ERROR. -/
def State.errored (s : State) : Prop := ∃ v, s.response = some { resp := .error, rdata := v }

/-- `t` differs from `s` in nothing the block holds (R20). -/
def sameBlock (s t : State) : Prop :=
  t.opa = s.opa ∧ t.opb = s.opb ∧ t.expl = s.expl ∧ t.exph = s.exph ∧
    t.res0 = s.res0 ∧ t.res1 = s.res1 ∧ t.crcstate = s.crcstate ∧ t.err = s.err

/-- The byte an event hands to the digest engine, if it is a CRCB (`40_crc_digest.md` R83). -/
def digestByte : Event → Option Byte
  | .bus (.wr off .four w) =>
    if off = slotOffset .cmd then
      match decode w with
      | .ok (.crcb b) => some b
      | _ => none
    else none
  | _ => none

/-- The byte an event added to the digest: that of a CRCB whose answer, in the state `t` it left, is OKAY. A CRCB
refused in lockout adds none (R86). -/
def byteTaken (e : Event) (t : State) : Option Byte :=
  if t.response = writeResponse .okay then digestByte e else none

/-- The bytes that a run of the events from `s` digests, in order, whatever else it does. -/
def bytesTaken : List Event → State → List Byte
  | [], _ => []
  | e :: es, s =>
    match handle e s with
    | .next t => (byteTaken e t).toList ++ bytesTaken es t
    | .fault _ | .refused _ => []

/-- A digest stream: the raw register it began from, and the bytes digested since (`40_crc_digest.md` R81 to R84). -/
structure DigestStream where
  start : Word
  bytes : List Byte
deriving DecidableEq, Repr

/-- A stream of no bytes from the register's initial value: after reset (R34) and after CRCINIT (R82). -/
def DigestStream.fresh : DigestStream := { start := Config.crcInit, bytes := [] }

/-- The raw register the stream has come to (R81). -/
def DigestStream.value (d : DigestStream) : Word := crcBytes d.start d.bytes

/-- The stream after an event that left the state `t`: reset begins a fresh one, so does a CRCINIT answered OKAY, a
CRCLOAD answered OKAY resumes from the digest in OPA (R84), and any other event adds the byte it had digested, if
any. -/
def DigestStream.after (d : DigestStream) (e : Event) (t : State) : DigestStream :=
  if e = .reset then .fresh
  else if e = commandEvent (encode .crcinit) ∧ t.response = writeResponse .okay then .fresh
  else if e = commandEvent (encode .crcload) ∧ t.response = writeResponse .okay then
    { start := t.opa ^^^ Config.crcXorOut, bytes := [] }
  else { d with bytes := d.bytes ++ (byteTaken e t).toList }

/-- The event neither starts nor resumes a digest stream: no reset, no CRCINIT, no CRCLOAD (R86). -/
def keepsStream (e : Event) : Prop :=
  e ≠ .reset ∧ e ≠ commandEvent (encode .crcinit) ∧ e ≠ commandEvent (encode .crcload)

/-- The event leaves lockout: CLRERR or reset (`60_exceptions.md` R135). -/
def endsLockout (e : Event) : Prop := e = .reset ∨ e = commandEvent (encode .clrerr)

/-- In lockout the command is refused: the response is ERROR and nothing else changes (R135). -/
def refusedInLockout (i : Instr) : Prop :=
  ∀ s : State, s.err ≠ 0#4 → exec i s = .next { s with response := some { resp := .error, rdata := none } }

/-- Out of lockout, in every state where `pre` holds, the command completes: it answers OKAY, and the state is
`after s` but for that response. -/
def completesWhen (i : Instr) (pre : State → Prop) (after : State → State) : Prop :=
  ∀ s : State, s.err = 0#4 → pre s →
    exec i s = .next { after s with response := some { resp := .okay, rdata := none } }

/-- Out of lockout the command always completes. -/
def completes (i : Instr) (after : State → State) : Prop := completesWhen i (fun _ => True) after

/-- Out of lockout, in every state where `pre` holds, the command faults: ERR takes the code, the response is ERROR,
and nothing else changes (R137). -/
def faultsWhen (i : Instr) (pre : State → Prop) (code : BitVec 4) : Prop :=
  ∀ s : State, s.err = 0#4 → pre s →
    exec i s = .next { s with err := code, response := some { resp := .error, rdata := none } }

end Sys2Proof.Machine
end

