-- ==== Sys2Proof/Certificates/Slice0/Obligations.lean ====
section
/-! DEFINITION. The statements for the provers. Each docstring names the rule or the section of spec/ it formalises.
A next state is written as a record update: every field that is not named is unchanged, so each such equation is the
command's frame too. There is no memory (R40); the window's bytes are views of the registers (log 4). The fields
`pending` and `response` are the model's form of the block's inputs and of its answer (logs 1 and 2), the spec's `resp`
and `rdata` among them. -/

open Sys2Proof Sys2Proof.Machine

/-! ## Encoding -/

/-- Decode and encode agree, both ways (`30_encoding.md` sections 1, 2 and 4). -/
def Obligations.DecodeEncodeAgree : Prop :=
  (∀ i : Instr, i.wf = true → decode (encode i) = .ok i) ∧
  (∀ (w : Word) (i : Instr), decode w = .ok i → encode i = w)

/-- R64: the legal words, their number, and ILLCMD for every other word. -/
def Obligations.ExactlyTheLegalWordsExecute : Prop :=
  (∀ w : Word, (∃ i, decode w = .ok i) ↔ legalWord w = true) ∧
  (∃ l : List Word, l.Nodup ∧ l.length = 266 ∧ ∀ w, w ∈ l ↔ legalWord w = true) ∧
  (∀ (s : State) (w : Word) (es : List Event), s.pending = commandEvent w :: es → s.err = 0#4 →
    legalWord w = false →
    step s = .next { s with pending := es, err := 3#4, response := some { resp := .error, rdata := none } }) ∧
  legalWord 0x00000120#32 = false ∧ legalWord 0x00010020#32 = false

/-- The opcode map (`30_encoding.md` section 2): a word selects the row of an instruction exactly where the decoder
reads an instruction of that row. -/
def Obligations.WordsDecodeByTheirRow : Prop :=
  ∀ (w : Word) (i : Instr), selectsRow w i ↔ ∃ j, decode w = .ok j ∧ opcodeRow j = opcodeRow i

/-- Words written out from the opcode map (`30_encoding.md` section 2) decode to the commands they stand for. -/
def Obligations.SpecWordsDecode : Prop :=
  decode 0b00000000000000000000000000000001#32 = .ok .clrerr ∧
  decode 0b00000000000000000000000000010001#32 = .ok .deg ∧
  decode 0b00000000000000000000000000100010#32 = .ok .divrem ∧
  decode 0b00000000000000000110011100110001#32 = .ok (.crcb 0x67#8) ∧
  decode 0b00000000000000000000000000110010#32 = .ok .crcload

/-- Immediate and exponent assembly (`30_encoding.md` section 1; `10_state.md` section 2): imm8 is bits 15 to 8, an
unsigned byte used as is, and the exponent is `EXPH * 2^32 + EXPL`. -/
def Obligations.ImmediateAndExponentAssembly : Prop :=
  (∀ (w : Word) (b : Byte), decode w = .ok (.crcb b) → b.toNat = w.toNat / 256 % 256) ∧
  (∀ b : Byte, decode (BitVec.ofNat 32 (b.toNat * 256 + 0x31)) = .ok (.crcb b)) ∧
  (∀ s : State, s.exponent.toNat = s.exph.toNat * 2 ^ 32 + s.expl.toNat)

/-! ## The step -/

/-- A command word presented next and decoding to `i` makes the step the execution of `i`, with the rest of the host's
events still pending (`30_encoding.md` section 4). -/
def Obligations.StepRunsTheDecodedCommand : Prop :=
  ∀ (s : State) (w : Word) (es : List Event) (i : Instr),
    s.pending = commandEvent w :: es → decode w = .ok i → step s = exec i { s with pending := es }

/-- R69: the command step, every branch. -/
def Obligations.CommandStepBranches : Prop :=
  ∀ (s : State) (w : Word) (es : List Event), s.pending = commandEvent w :: es →
    (s.err ≠ 0#4 → w = 0x00000001#32 →
      step s = .next { s with pending := es, err := 0#4, response := some { resp := .okay, rdata := none } }) ∧
    (s.err ≠ 0#4 → w ≠ 0x00000001#32 →
      step s = .next { s with pending := es, response := some { resp := .error, rdata := none } }) ∧
    (s.err = 0#4 → legalWord w = false →
      step s = .next { s with pending := es, err := 3#4, response := some { resp := .error, rdata := none } }) ∧
    (s.err = 0#4 → legalWord w = true →
      ∃ i t, decode w = .ok i ∧ exec i { s with pending := es } = .next t ∧ step s = .next t ∧
        ((t.response = some { resp := .okay, rdata := none } ∧ t.err = 0#4) ∨
         (∃ code : BitVec 4, code ≠ 0#4 ∧
           t = { s with pending := es, err := code, response := some { resp := .error, rdata := none } })))

/-- The step is total: it never stops (`00_scope.md` section 2; `70_reset_and_hazards.md` section 4), and with nothing
presented the block keeps its state. -/
def Obligations.EveryStepAnswersANextState : Prop :=
  (∀ s : State, ∃ t, step s = .next t) ∧ (∀ s : State, s.pending = [] → step s = .next s)

/-- Running the steps is the left fold over the events presented (`20_memory.md` section 4), and what stays pending
after them is untouched. -/
def Obligations.RunIsFoldOverEvents : Prop :=
  ∀ (es later : List Event) (s t : State), handleAll es { s with pending := [] } = .next t →
    Host.Core.run core es.length { s with pending := es ++ later } = .next { t with pending := later }

/-- No transaction sees a later one (`20_memory.md` section 4): two states that differ only in what comes after the
first event step to states that differ only in what is pending. -/
def Obligations.StepIgnoresLaterEvents : Prop :=
  ∀ (s t : State) (e : Event) (later other : List Event),
    step { s with pending := e :: later } = .next t →
    step { s with pending := e :: other } = .next { t with pending := other }

/-! ## The bus -/

/-- R43: an access that is no whole aligned word is an access error, whatever the offset. -/
def Obligations.NarrowOrUnalignedAccessHasNoEffect : Prop :=
  ∀ (s : State) (es : List Event) (off : BitVec 6) (size : AccessSize) (d : Word),
    (size ≠ .four ∨ off.toNat % 4 ≠ 0) →
    step { s with pending := .bus (.rd off size) :: es } =
      .next { s with pending := es, response := some { resp := .error, rdata := some 0#32 } } ∧
    step { s with pending := .bus (.wr off size d) :: es } =
      .next { s with pending := es, response := some { resp := .error, rdata := none } }

/-- R44: the access errors of the map, in every state, lockout or not. -/
def Obligations.ForbiddenDirectionHasNoEffect : Prop :=
  ∀ (s : State) (es : List Event) (off : BitVec 6) (d : Word), off.toNat % 4 = 0 →
    (off.toNat = 0x00 ∨ 0x28 ≤ off.toNat →
      step { s with pending := .bus (.rd off .four) :: es } =
        .next { s with pending := es, response := some { resp := .error, rdata := some 0#32 } }) ∧
    (off.toNat = 0x04 ∨ off.toNat = 0x18 ∨ off.toNat = 0x1C ∨ off.toNat = 0x20 ∨ off.toNat = 0x24 ∨
        0x28 ≤ off.toNat →
      step { s with pending := .bus (.wr off .four d) :: es } =
        .next { s with pending := es, response := some { resp := .error, rdata := none } })

/-- R45: the accepted reads, in every state, and that none changes anything the next read could see. -/
def Obligations.AcceptedReadsReturnTheirRegister : Prop :=
  ∀ (s : State) (es : List Event),
    ∀ p ∈ [(0x04#6, s.err.setWidth 32), (0x08#6, s.opa), (0x0C#6, s.opb), (0x10#6, s.expl), (0x14#6, s.exph),
        (0x18#6, s.res0), (0x1C#6, s.res1), (0x20#6, s.crcstate), (0x24#6, s.crcstate ^^^ 0xFFFFFFFF#32)],
      step { s with pending := .bus (.rd p.1 .four) :: es } =
        .next { s with pending := es, response := some { resp := .okay, rdata := some p.2 } } ∧
      handleAll [.bus (.rd p.1 .four), .bus (.rd p.1 .four)] s =
        .next { s with response := some { resp := .okay, rdata := some p.2 } }

/-- R46: the accepted writes, in every state: a register takes all 32 bits and nothing else changes, no byte of the
window outside it among the rest; a write of CMD is the command step, answered OKAY or ERROR. -/
def Obligations.AcceptedWritesWriteTheirRegister : Prop :=
  ∀ (s : State) (es : List Event) (d : Word),
    step { s with pending := .bus (.wr 0x08#6 .four d) :: es } =
      .next { s with opa := d, pending := es, response := some { resp := .okay, rdata := none } } ∧
    step { s with pending := .bus (.wr 0x0C#6 .four d) :: es } =
      .next { s with opb := d, pending := es, response := some { resp := .okay, rdata := none } } ∧
    step { s with pending := .bus (.wr 0x10#6 .four d) :: es } =
      .next { s with expl := d, pending := es, response := some { resp := .okay, rdata := none } } ∧
    step { s with pending := .bus (.wr 0x14#6 .four d) :: es } =
      .next { s with exph := d, pending := es, response := some { resp := .okay, rdata := none } } ∧
    (∀ (off a : BitVec 6) (t : State), off ∈ [0x08#6, 0x0C#6, 0x10#6, 0x14#6] →
      step { s with pending := .bus (.wr off .four d) :: es } = .next t →
      a.toNat / 4 ≠ off.toNat / 4 → t.windowByte a = s.windowByte a) ∧
    (∃ t, step { s with pending := .bus (.wr 0x00#6 .four d) :: es } = .next t ∧
      commandWrite d { s with pending := es } = .next t ∧
      (t.response = some { resp := .okay, rdata := none } ∨
        (t.response = some { resp := .error, rdata := none } ∧ sameBlock { s with err := t.err } t)))

/-- The window's byte order (`20_memory.md` section 3): byte `off + k` of a readable register is its bits
`8k+7 : 8k`. -/
def Obligations.WindowIsLittleEndian : Prop :=
  ∀ (s : State) (r : Slot) (v : Word), s.readSlot r = some v →
    ∃ b0 b1 b2 b3 : Byte,
      s.windowByte (slotOffset r) = some b0 ∧ s.windowByte (slotOffset r + 1#6) = some b1 ∧
      s.windowByte (slotOffset r + 2#6) = some b2 ∧ s.windowByte (slotOffset r + 3#6) = some b3 ∧
      v.toNat = b0.toNat + 2 ^ 8 * b1.toNat + 2 ^ 16 * b2.toNat + 2 ^ 24 * b3.toNat

/-- The platform parameter BASE (`20_memory.md` sections 2 and 5): the host addresses that reach the block are
`BASE + off`, and only they. -/
def Obligations.HostAddressesReachTheWindow : Prop :=
  (∀ (off : BitVec 6) (size : AccessSize) (v : Word),
    memRead (Config.base + off.toNat) size = some (.rd off size) ∧
    memWrite (Config.base + off.toNat) size v = some (.wr off size v)) ∧
  (∀ (addr : Nat) (size : AccessSize) (v : Word), (addr < Config.base ∨ Config.base + 64 ≤ addr) →
    memRead addr size = none ∧ memWrite addr size v = none)

/-- R136: the checks of a transaction in their fixed order; the first that fails decides. -/
def Obligations.ChecksInFixedOrder : Prop :=
  (∀ (s : State) (es : List Event) (off : BitVec 6) (size : AccessSize) (d : Word),
    let turned : State := { s with pending := es, response := some { resp := .error, rdata := none } }
    ∃ t, step { s with pending := .bus (.wr off size d) :: es } = .next t ∧
      if size ≠ .four ∨ off.toNat % 4 ≠ 0 then t = turned
      else if off.toNat ∉ [0x00, 0x08, 0x0C, 0x10, 0x14] then t = turned
      else if off.toNat = 0x00 then
        if s.err ≠ 0#4 ∧ d ≠ 0x00000001#32 then t = turned
        else if legalWord d = false then t = { turned with err := 3#4 }
        else if d = 0x00000022#32 ∧ s.opb = 0#32 then t = { turned with err := 1#4 }
        else if d = 0x00000023#32 ∧ invmod s.opa = none then t = { turned with err := 2#4 }
        else t.response = some { resp := .okay, rdata := none } ∧ t.err = 0#4
      else t.response = some { resp := .okay, rdata := none } ∧ t.err = s.err) ∧
  (∀ (s : State) (es : List Event) (off : BitVec 6) (size : AccessSize),
    let turned : State := { s with pending := es, response := some { resp := .error, rdata := some 0#32 } }
    ∃ t, step { s with pending := .bus (.rd off size) :: es } = .next t ∧
      if size ≠ .four ∨ off.toNat % 4 ≠ 0 then t = turned
      else if off.toNat = 0x00 ∨ 0x28 ≤ off.toNat then t = turned
      else ∃ v, t = { s with pending := es, response := some { resp := .okay, rdata := some v } })

/-! ## The commands -/

/-- R118: NOP. -/
def Obligations.NopChangesNothing : Prop :=
  encode .nop = 0x00000000#32 ∧ completes .nop (fun s => s) ∧ refusedInLockout .nop

/-- R119: CLRERR, accepted in every state and alone so, leaves lockout and writes nothing else; STATUS then reads
0. Short of reset, no other event leaves lockout. -/
def Obligations.ClrerrClearsErrOnly : Prop :=
  encode .clrerr = 0x00000001#32 ∧ (∀ i : Instr, i ≠ .clrerr → refusedInLockout i) ∧
  (∀ (s t : State) (e : Event), s.err ≠ 0#4 → handle e s = .next t → t.err = 0#4 → endsLockout e) ∧
  ∀ s : State,
    exec .clrerr s = .next { s with err := 0#4, response := some { resp := .okay, rdata := none } } ∧
    handleAll [commandEvent (encode .clrerr), .bus (.rd 0x04#6 .four)] s =
      .next { s with err := 0#4, response := some { resp := .okay, rdata := some 0x00000000#32 } }

/-- R91: BITREV. -/
def Obligations.BitrevReversesOpaIntoRes0 : Prop :=
  encode .bitrev = 0x00000010#32 ∧
  completes .bitrev (fun s => { s with res0 := rev32 s.opa }) ∧ refusedInLockout .bitrev ∧
  (∀ (v : Word) (i : Nat), i < 32 → (rev32 v).getLsbD i = v.getLsbD (31 - i)) ∧
  rev32 0x00000000#32 = 0x00000000#32 ∧ rev32 0xFFFFFFFF#32 = 0xFFFFFFFF#32 ∧
  rev32 0x80000001#32 = 0x80000001#32 ∧ rev32 0x00000001#32 = 0x80000000#32 ∧
  rev32 0x04C11DB7#32 = 0xEDB88320#32

/-- R107: DEG. The degree is R12's: the index of the highest set bit. -/
def Obligations.DegWritesDegreeOrAllOnes : Prop :=
  encode .deg = 0x00000011#32 ∧
  completesWhen .deg (fun s => s.opa ≠ 0#32) (fun s => { s with res0 := BitVec.ofNat 32 (deg s.opa).toNat }) ∧
  completesWhen .deg (fun s => s.opa = 0#32) (fun s => { s with res0 := 0xFFFFFFFF#32 }) ∧
  refusedInLockout .deg ∧
  (∀ v : Word, v ≠ 0#32 → ∃ d : Nat, d ≤ 31 ∧ deg v = d ∧ v.getLsbD d = true ∧ ∀ i, d < i → v.getLsbD i = false) ∧
  deg 0x00000001#32 = 0 ∧ deg 0x80000000#32 = 31 ∧ deg 0xFFFFFFFF#32 = 31 ∧ deg 0x00010000#32 = 16

/-- MULMOD (`42_mulmod.md` section 2) with its corner cases. That the result is the remainder of the product is
`MulmodIsRemainderOfProduct`. -/
def Obligations.MulmodWritesProductToRes0 : Prop :=
  encode .mulmod = 0x00000020#32 ∧
  completes .mulmod (fun s => { s with res0 := mulmod s.opa s.opb }) ∧ refusedInLockout .mulmod ∧
  (∀ y : Word, mulmod 0#32 y = 0#32) ∧ (∀ x : Word, mulmod x 0#32 = 0#32) ∧
  (∀ y : Word, mulmod 1#32 y = y) ∧ (∀ x : Word, mulmod x 1#32 = x) ∧
  mulmod 0x00000002#32 0x80000000#32 = 0x04C11DB7#32 ∧
  mulmod 0xFFFFFFFF#32 0xFFFFFFFF#32 = 0x17A91E7C#32 ∧
  mulmod 0xC0000000#32 0x00000005#32 = 0xCD4326D9#32

/-- R101: POWMOD with its corner cases. -/
def Obligations.PowmodWritesPowerToRes0 : Prop :=
  encode .powmod = 0x00000021#32 ∧
  completes .powmod (fun s => { s with res0 := powmod s.opa (s.exph ++ s.expl) }) ∧ refusedInLockout .powmod ∧
  (∀ b : Word, powmod b 0#64 = 1#32) ∧ (∀ e : Exponent, e ≠ 0#64 → powmod 0#32 e = 0#32) ∧
  (∀ e : Exponent, powmod 1#32 e = 1#32) ∧ (∀ b : Word, powmod b 1#64 = b) ∧
  powmod 2#32 31#64 = 0x80000000#32 ∧ powmod 2#32 32#64 = 0x04C11DB7#32 ∧
  powmod 2#32 0xFFFFFFFFFFFFFFFF#64 = 1#32 ∧ powmod 2#32 400#64 = 0x97723A4B#32

/-- R106: DIVREM with its fault and its corner cases. -/
def Obligations.DivremWritesQuotientAndRemainder : Prop :=
  encode .divrem = 0x00000022#32 ∧
  faultsWhen .divrem (fun s => s.opb = 0#32) 1#4 ∧
  completesWhen .divrem (fun s => s.opb ≠ 0#32)
    (fun s => { s with res0 := (divrem s.opa s.opb).1, res1 := (divrem s.opa s.opb).2 }) ∧
  refusedInLockout .divrem ∧
  (∀ y : Word, y ≠ 0#32 → divrem 0#32 y = (0#32, 0#32)) ∧
  (∀ x y : Word, y ≠ 0#32 → deg x < deg y → divrem x y = (0#32, x)) ∧
  (∀ x : Word, divrem x 1#32 = (x, 0#32)) ∧ (∀ x : Word, x ≠ 0#32 → divrem x x = (1#32, 0#32)) ∧
  divrem 0x00000007#32 0x00000002#32 = (0x00000003#32, 0x00000001#32)

/-- INVMOD where the Euclidean loop ends at 1, and where it does not (`45_invmod.md` section 2). -/
def Obligations.InvmodWritesEuclidResult : Prop :=
  encode .invmod = 0x00000023#32 ∧ refusedInLockout .invmod ∧
  (∀ r : Word, completesWhen .invmod (fun s => invmod s.opa = some r) (fun s => { s with res0 := r })) ∧
  faultsWhen .invmod (fun s => invmod s.opa = none) 2#4

/-- R113: INVMOD faults for exactly one operand, 0, and else writes the inverse. -/
def Obligations.InvmodFaultsExactlyOnZero : Prop :=
  encode .invmod = 0x00000023#32 ∧ refusedInLockout .invmod ∧
  faultsWhen .invmod (fun s => s.opa = 0#32) 2#4 ∧
  (∀ s : State, s.err = 0#4 → s.opa ≠ 0#32 → ∃ r : Word, invmod s.opa = some r ∧ mulmod r s.opa = 1#32 ∧
    exec .invmod s = .next { s with res0 := r, response := some { resp := .okay, rdata := none } }) ∧
  (∀ v : Word, invmod v = none ↔ (euclidLoop 32 (euclidStart v)).X ≠ 1#33) ∧
  invmod 1#32 = some 1#32 ∧ invmod 2#32 = some 0x82608EDB#32 ∧ invmod 0x80000000#32 = some 0x93224403#32 ∧
  invmod 0xFFFFFFFF#32 = some 0x73124EA7#32 ∧ invmod 0x97723A4B#32 = some 0x66175627#32

/-- R82: CRCINIT. -/
def Obligations.CrcinitStartsAFreshStream : Prop :=
  encode .crcinit = 0x00000030#32 ∧
  completes .crcinit (fun s => { s with crcstate := 0xFFFFFFFF#32 }) ∧ refusedInLockout .crcinit ∧
  (∀ s : State, s.err = 0#4 →
    handleAll [commandEvent 0x00000030#32, commandEvent 0x00000030#32] s =
      handleAll [commandEvent 0x00000030#32] s ∧
    handleAll [commandEvent 0x00000030#32, .bus (.rd 0x24#6 .four)] s =
      .next { s with crcstate := 0xFFFFFFFF#32, response := some { resp := .okay, rdata := some 0x00000000#32 } })

/-- R83: CRCB, with the byte step's corner cases and its running example. -/
def Obligations.CrcbDigestsOneByte : Prop :=
  (∀ b : Byte, encode (.crcb b) = BitVec.ofNat 32 (b.toNat * 256) ||| 0x00000031#32) ∧
  (∀ b : Byte, completes (.crcb b) (fun s => { s with crcstate := crcStep s.crcstate b }) ∧
    refusedInLockout (.crcb b)) ∧
  crcStep 0xFFFFFFFF#32 0x00#8 = 0x2DFD1072#32 ∧ crcStep 0#32 0#8 = 0#32 ∧
  (∀ s : State, s.err = 0#4 → s.crcstate = 0xFFFFFFFF#32 →
    handleAll [commandEvent 0x00006731#32, .bus (.rd 0x24#6 .four)] s =
      .next { s with crcstate := 0xFE2BE489#32, response := some { resp := .okay, rdata := some 0x01D41B76#32 } })

/-- CRCLOAD (`40_crc_digest.md` section 2): it resumes from a finalised digest, and from 0 it is CRCINIT. -/
def Obligations.CrcloadResumesFromDigest : Prop :=
  encode .crcload = 0x00000032#32 ∧
  completes .crcload (fun s => { s with crcstate := s.opa ^^^ 0xFFFFFFFF#32 }) ∧ refusedInLockout .crcload ∧
  (∀ s : State, s.opa = 0#32 → exec .crcload s = exec .crcinit s) ∧
  (∀ s : State, s.err = 0#4 → s.opa = 0x775EE79C#32 →
    exec .crcload s =
      .next { s with crcstate := 0x88A11863#32, response := some { resp := .okay, rdata := none } })

/-- Every pseudo-command (`30_encoding.md` section 5), run from a state out of lockout, loads its operands
(`20_memory.md` section 2) and leaves the result of its command, or the command's fault. One that stands for no line
leaves everything as it was. A character is its 7-bit code (log 16). -/
def Obligations.PseudoCommandsLeaveTheirResult : Prop :=
  ∀ s : State, s.err = 0#4 →
    (∀ x y : Word, handleAll (lineEvents (expand (.mul x y))) s =
      .next { s with opa := x, opb := y, res0 := mulmod x y, response := some { resp := .okay, rdata := none } }) ∧
    (∀ (b : Word) (e : Exponent), handleAll (lineEvents (expand (.pow b e))) s =
      .next { s with opa := b, expl := e.setWidth 32, exph := (e >>> 32).setWidth 32, res0 := powmod b e,
                     response := some { resp := .okay, rdata := none } }) ∧
    (∀ x y : Word, y ≠ 0#32 → handleAll (lineEvents (expand (.div x y))) s =
      .next { s with opa := x, opb := y, res0 := (divrem x y).1, res1 := (divrem x y).2,
                     response := some { resp := .okay, rdata := none } }) ∧
    (∀ x : Word, handleAll (lineEvents (expand (.div x 0#32))) s =
      .next { s with opa := x, opb := 0#32, err := 1#4, response := some { resp := .error, rdata := none } }) ∧
    (∀ v r : Word, invmod v = some r → handleAll (lineEvents (expand (.inv v))) s =
      .next { s with opa := v, res0 := r, response := some { resp := .okay, rdata := none } }) ∧
    (∀ v : Word, invmod v = none → handleAll (lineEvents (expand (.inv v))) s =
      .next { s with opa := v, err := 2#4, response := some { resp := .error, rdata := none } }) ∧
    (∀ e : Exponent, handleAll (lineEvents (expand (.setexp e))) s =
      .next { s with expl := e.setWidth 32, exph := (e >>> 32).setWidth 32,
                     response := some { resp := .okay, rdata := none } }) ∧
    (∀ p ∈ [Pseudo.toalg, .toconv], handleAll (lineEvents (expand p)) s =
      .next { s with res0 := rev32 s.opa, response := some { resp := .okay, rdata := none } }) ∧
    (∀ v : Word, handleAll (lineEvents (expand (.crcresume v))) s =
      .next { s with opa := v, crcstate := v ^^^ 0xFFFFFFFF#32, response := some { resp := .okay, rdata := none } }) ∧
    (∀ m : List Byte, handleAll (lineEvents (expand (.crcbytes m))) s =
      .next (if m = [] then s else
        { s with crcstate := crcBytes s.crcstate m, response := some { resp := .okay, rdata := none } })) ∧
    (∀ text : List (BitVec 7), handleAll (lineEvents (expand (.crcstr text))) s =
      .next (if text = [] then s else
        { s with crcstate := crcBytes s.crcstate (text.map fun c => BitVec.ofNat 8 c.toNat),
                 response := some { resp := .okay, rdata := none } }))

/-! ## Faults, lockout, reset -/

/-- R135: lockout. -/
def Obligations.LockoutRefusesAllButClrerr : Prop :=
  ∀ (s : State) (es : List Event), s.err ≠ 0#4 →
    (∀ w : Word, w ≠ 0x00000001#32 →
      step { s with pending := commandEvent w :: es } =
        .next { s with pending := es, response := some { resp := .error, rdata := none } }) ∧
    (∀ (r : Slot) (v : Word), s.readSlot r = some v →
      step { s with pending := .bus (.rd (slotOffset r) .four) :: es } =
        .next { s with pending := es, response := some { resp := .okay, rdata := some v } }) ∧
    (∀ (off : BitVec 6) (d : Word), off ∈ [0x08#6, 0x0C#6, 0x10#6, 0x14#6] →
      ∃ t, step { s with pending := .bus (.wr off .four d) :: es } = .next t ∧ t.okay ∧ t.err = s.err ∧
        handleAll [.bus (.rd off .four)] t = .next { t with response := some { resp := .okay, rdata := some d } }) ∧
    (∀ (e : Event) (t : State), step { s with pending := e :: es } = .next t →
      (t.err = 0#4 ↔ e = .reset ∨ e = commandEvent 0x00000001#32) ∧
      (e ≠ .reset → e ≠ commandEvent 0x00000001#32 → t.err = s.err))

/-- R137: fault entry writes ERR and the response and nothing else, and STATUS shows the code ever after. Any step
that brings the block from no fault to a fault is the write of a command word that faults. -/
def Obligations.FaultEntryWritesErrOnly : Prop :=
  (∀ s t : State, s.err = 0#4 → step s = .next t → t.err ≠ 0#4 →
    ∃ w es, s.pending = commandEvent w :: es ∧
      t = { s with pending := es, err := t.err, response := some { resp := .error, rdata := none } } ∧
      ((t.err = 1#4 ∧ w = 0x00000022#32 ∧ s.opb = 0#32) ∨
       (t.err = 2#4 ∧ w = 0x00000023#32 ∧ invmod s.opa = none) ∨
       (t.err = 3#4 ∧ legalWord w = false))) ∧
  (∀ t : State, handleAll [.bus (.rd 0x04#6 .four)] t =
    .next { t with response := some { resp := .okay, rdata := some (t.err.setWidth 32) } })

/-- Nesting is impossible (`60_exceptions.md` section 5): over any run without CLRERR and reset, a recorded fault
keeps its code, and no result and no digest changes. -/
def Obligations.FirstFaultCodeIsKept : Prop :=
  ∀ (es : List Event) (s t : State), s.err ≠ 0#4 → (∀ e ∈ es, ¬ endsLockout e) → handleAll es s = .next t →
    t.err = s.err ∧ t.res0 = s.res0 ∧ t.res1 = s.res1 ∧ t.crcstate = s.crcstate

/-- Every step keeps ERR a code the block produces (`60_exceptions.md` section 1). -/
def Obligations.StepKeepsErrLegal : Prop :=
  ∀ s t : State, s.errLegal → step s = .next t → t.errLegal

/-- ERR is legal at reset (`10_state.md` section 6). -/
def Obligations.ResetErrLegal : Prop := State.reset.errLegal

/-- Codes 4 to 15 are never produced, whatever any host presents and whenever (`60_exceptions.md` section 1): STATUS
reads 0, 1, 2 or 3. -/
def Obligations.ReachableStatusReadsAtMostThree : Prop :=
  ∀ s : State, Reachable s → s.errLegal ∧
    ∃ v : Word, v.toNat ≤ 3 ∧ handleAll [.bus (.rd 0x04#6 .four)] s =
      .next { s with response := some { resp := .okay, rdata := some v } }

/-- The write set of every step (`10_state.md` section 7): which events can change each piece of state. -/
def Obligations.OnlyNamedStepsWriteEachRegister : Prop :=
  ∀ (s t : State) (e : Event) (es : List Event), s.pending = e :: es → step s = .next t →
    t.pending = es ∧
    (t.opa ≠ s.opa → e = .reset ∨ ∃ v, e = .bus (.wr 0x08#6 .four v) ∧ t.opa = v) ∧
    (t.opb ≠ s.opb → e = .reset ∨ ∃ v, e = .bus (.wr 0x0C#6 .four v) ∧ t.opb = v) ∧
    (t.expl ≠ s.expl → e = .reset ∨ ∃ v, e = .bus (.wr 0x10#6 .four v) ∧ t.expl = v) ∧
    (t.exph ≠ s.exph → e = .reset ∨ ∃ v, e = .bus (.wr 0x14#6 .four v) ∧ t.exph = v) ∧
    (t.res0 ≠ s.res0 → e = .reset ∨ (s.err = 0#4 ∧
      ∃ i, i ∈ [Instr.bitrev, .deg, .mulmod, .powmod, .divrem, .invmod] ∧ e = commandEvent (encode i))) ∧
    (t.res1 ≠ s.res1 → e = .reset ∨ (s.err = 0#4 ∧ s.opb ≠ 0#32 ∧ e = commandEvent (encode .divrem))) ∧
    (t.crcstate ≠ s.crcstate → e = .reset ∨ (s.err = 0#4 ∧
      (e = commandEvent (encode .crcinit) ∨ e = commandEvent (encode .crcload) ∨
        ∃ b, e = commandEvent (encode (.crcb b))))) ∧
    (t.err ≠ s.err → endsLockout e ∨ (s.err = 0#4 ∧ ∃ w, e = commandEvent w))

/-- R34: the reset values; and the reset event takes every piece of the block's state there from any state. -/
def Obligations.ResetRestoresEveryRegister : Prop :=
  (State.reset.opa = 0x00000000#32 ∧ State.reset.opb = 0x00000000#32 ∧ State.reset.expl = 0x00000000#32 ∧
   State.reset.exph = 0x00000000#32 ∧ State.reset.res0 = 0x00000000#32 ∧ State.reset.res1 = 0x00000000#32 ∧
   State.reset.crcstate = 0xFFFFFFFF#32 ∧ State.reset.err = 0#4) ∧
  (∀ (s : State) (es : List Event), s.pending = .reset :: es →
    ∃ t, step s = .next t ∧ sameBlock State.reset t ∧ t.pending = es)

/-- After reset every command may be issued at once (`70_reset_and_hazards.md` section 2): each answers, and only
INVMOD and DIVREM, whose operands are 0 after reset, fault. -/
def Obligations.EveryCommandRunsAfterReset : Prop :=
  ∀ i : Instr, ∃ t, step { State.reset with pending := [commandEvent (encode i)] } = .next t ∧
    (i ≠ .divrem → i ≠ .invmod → t.okay ∧ t.err = 0#4) ∧
    (i = .divrem → t.errored ∧ t.err = 1#4) ∧ (i = .invmod → t.errored ∧ t.err = 2#4)

/-! ## Bit reversal and the digest engine -/

/-- `rev32` is a linear involution and not multiplicative (`41_bitrev.md`, last rule). -/
def Obligations.Rev32IsLinearInvolution : Prop :=
  (∀ v : Word, rev32 (rev32 v) = v) ∧ Function.Bijective rev32 ∧
  (∀ a b : Word, rev32 (a ^^^ b) = rev32 a ^^^ rev32 b) ∧
  (∃ a b : Word, rev32 (mulmod a b) ≠ mulmod (rev32 a) (rev32 b))

/-- The digest engine and the multiplier compute in one field, seen through bit reversal (`40_crc_digest.md`
section 1, `00_scope.md` section 6): a byte step adds the reversed byte at the top and multiplies by x^8. -/
def Obligations.CrcStepMultipliesByX8 : Prop :=
  ∀ (s : Word) (b : Byte), rev32 (crcStep s b) = mulmod (rev32 s ^^^ ((rev8 b).setWidth 32 <<< 24)) 0x100#32

/-- Chunking (`40_crc_digest.md` section 3): one buffer or two chunks, in one stream or resumed from the finalised
digest of the first. -/
def Obligations.ChunkedDigestEqualsWhole : Prop :=
  (∀ m1 m2 : List Byte, crcBytes 0xFFFFFFFF#32 (m1 ++ m2) = crcBytes (crcBytes 0xFFFFFFFF#32 m1) m2) ∧
  (∀ (m1 m2 : List Byte) (s : State), s.err = 0#4 →
    handleAll (lineEvents (expand (.crcresume (digest m1)) ++ expand (.crcbytes m2) ++ [.read .crcdigest])) s =
      .next { s with opa := digest m1, crcstate := crcBytes 0xFFFFFFFF#32 (m1 ++ m2),
                     response := some { resp := .okay, rdata := some (digest (m1 ++ m2)) } })

/-- The whole-message contract (`40_crc_digest.md` section 3). First, for every step: if CRCSTATE is what a stream of
bytes comes to, it is after the step what that stream, with what the step began, resumed or added, comes to. So, over
any run after a CRCINIT that is accepted, access errors, faults, CLRERR and commands refused in lockout among its
answers, and with no other CRCINIT, no CRCLOAD and no reset in it, CRCDIGEST reads as the digest of exactly the bytes
of the CRCBs that were answered OKAY. -/
def Obligations.DigestIsOfExactlyTheBytesFed : Prop :=
  (∀ (s t : State) (e : Event) (es : List Event) (d : DigestStream), s.pending = e :: es → step s = .next t →
    s.crcstate = d.value → t.crcstate = (d.after e t).value) ∧
  (∀ (es : List Event) (s t : State), s.err = 0#4 → (∀ e ∈ es, keepsStream e) →
    handleAll (commandEvent (encode .crcinit) :: es) s = .next t →
    let m := bytesTaken (commandEvent (encode .crcinit) :: es) s
    t.crcstate = crcBytes 0xFFFFFFFF#32 m ∧
    handleAll [.bus (.rd 0x24#6 .four)] t =
      .next { t with response := some { resp := .okay, rdata := some (digest m) } })

/-- Every 32-bit value is the digest of some message (`40_crc_digest.md` section 2 says so of CRCLOAD's operand), and
four bytes are enough. -/
def Obligations.EveryWordIsADigest : Prop := ∀ v : Word, ∃ m : List Byte, m.length = 4 ∧ digest m = v

/-- The algebraic reading of the digest (`40_crc_digest.md` section 3), for messages of fewer than 2^61 bytes. -/
def Obligations.DigestDifferenceIsAlgebraic : Prop :=
  ∀ (m m' : List Byte) (o : Nat), m.length = m'.length → o + 4 ≤ m.length → m.length < 2 ^ 61 →
    (∀ i, i < o ∨ o + 4 ≤ i → m[i]? = m'[i]?) →
    let e : Nat → Byte := fun i => m.getD (o + i) 0#8 ^^^ m'.getD (o + i) 0#8
    let D : Word := rev8 (e 0) ++ rev8 (e 1) ++ rev8 (e 2) ++ rev8 (e 3)
    rev32 (digest m) ^^^ rev32 (digest m') = mulmod D (powmod 2#32 (BitVec.ofNat 64 (8 * (m.length - o))))

/-! ## The arithmetic -/

/-- `mulmod` is the remainder by the generator of the carry-less product (`42_mulmod.md` section 3). -/
def Obligations.MulmodIsRemainderOfProduct : Prop :=
  ∀ a b : Word, (mulmod a b).setWidth 64 = (divrem (clmul (a.setWidth 64) (b.setWidth 64)) (Config.p33.setWidth 64)).2

/-- The ring laws of `mulmod` (`42_mulmod.md` section 3). -/
def Obligations.MulmodRingLaws : Prop :=
  ∀ a b c : Word,
    mulmod a b = mulmod b a ∧ mulmod (mulmod a b) c = mulmod a (mulmod b c) ∧
    mulmod a (b ^^^ c) = mulmod a b ^^^ mulmod a c ∧ mulmod a 1#32 = a ∧ mulmod a 0#32 = 0#32 ∧
    (deg a + deg b < 32 → mulmod a b = clmul a b)

/-- The width invariant's bit-for-bit form of the doubling (`42_mulmod.md` section 1). -/
def Obligations.DoublingTestsTheTopBit : Prop :=
  ∀ x : Word, double x = (x <<< 1) ^^^ (if x.getLsbD 31 then 0x04C11DB7#32 else 0#32)

/-- The loops have ended within their bounds (`70_reset_and_hazards.md` section 4): more iterations change nothing. -/
def Obligations.LoopsEndWithinTheirBounds : Prop :=
  (∀ (w n : Nat) (x : Word) (y : BitVec w) (z : Word), deg y + 1 ≤ n → mulmodLoop n x y z = mulmodLoop w x y z) ∧
  (∀ (n : Nat) (b : Word) (e : Exponent) (z : Word), deg e + 1 ≤ n → powmodLoop n b e z = powmodLoop 64 b e z) ∧
  (∀ (v : Word) (n : Nat), deg v + 1 ≤ n → (euclidLoop n (euclidStart v)).Y = 0#32 ∧
    euclidLoop n (euclidStart v) = euclidLoop 32 (euclidStart v))

/-- Division with remainder (`44_divrem_deg.md` section 1), at every width: existence, degree bound, uniqueness, the
corner cases, and for 32-bit operands the document's test property. -/
def Obligations.DivremIsPolynomialDivision : Prop :=
  (∀ (w : Nat) (x y : BitVec w), y ≠ 0#w →
    x.setWidth (2 * w) =
      clmul ((divrem x y).1.setWidth (2 * w)) (y.setWidth (2 * w)) ^^^ (divrem x y).2.setWidth (2 * w) ∧
    deg (divrem x y).2 < deg y ∧
    (∀ q r : BitVec w, x.setWidth (2 * w) = clmul (q.setWidth (2 * w)) (y.setWidth (2 * w)) ^^^ r.setWidth (2 * w) →
      deg r < deg y → (q, r) = divrem x y) ∧
    (deg x < deg y → divrem x y = (0#w, x)) ∧
    (x ≠ 0#w → deg y ≤ deg x → deg (divrem x y).1 = deg x - deg y)) ∧
  (∀ x y : Word, y ≠ 0#32 → mulmod (divrem x y).1 y ^^^ (divrem x y).2 = x)

/-- Exponent laws of `powmod` that hold in the ring (`43_powmod.md`, last rule). -/
def Obligations.PowmodExponentLaws : Prop :=
  ∀ (b : Word) (e1 e2 : Nat),
    (e1 + e2 < 2 ^ 64 → powmod b (BitVec.ofNat 64 (e1 + e2)) =
      mulmod (powmod b (BitVec.ofNat 64 e1)) (powmod b (BitVec.ofNat 64 e2))) ∧
    (e1 < 2 ^ 64 → e2 < 2 ^ 64 → e1 * e2 < 2 ^ 64 → powmod b (BitVec.ofNat 64 (e1 * e2)) =
      powmod (powmod b (BitVec.ofNat 64 e1)) (BitVec.ofNat 64 e2))

/-- Exponent laws of `powmod` in the field of 2^32 elements (`43_powmod.md`, last rule). -/
def Obligations.PowmodFieldLaws : Prop :=
  (∀ b : Word, b ≠ 0#32 → powmod b 0xFFFFFFFF#64 = 1#32 ∧ mulmod (powmod b 0xFFFFFFFE#64) b = 1#32 ∧
    ∀ e : Exponent, powmod b e = powmod b (e % 0xFFFFFFFF#64)) ∧
  (∀ b : Word, powmod b 0x100000000#64 = b)

/-- x generates the multiplicative group (`00_scope.md` section 7): its order is 2^32 − 1, no smaller positive exponent
giving 1, as the tests at the prime factors of 2^32 − 1 show; and squaring x 32 times gives x again. -/
def Obligations.GeneratorHasFullOrder : Prop :=
  powmod 2#32 0xFFFFFFFF#64 = 1#32 ∧ powmod 2#32 0x100000000#64 = 2#32 ∧
  (∀ p ∈ [3, 5, 17, 257, 65537], powmod 2#32 (BitVec.ofNat 64 (4294967295 / p)) ≠ 1#32) ∧
  3 * 5 * 17 * 257 * 65537 = 4294967295 ∧
  (∀ k : Nat, 0 < k → k < 2 ^ 32 - 1 → powmod 2#32 (BitVec.ofNat 64 k) ≠ 1#32)

/-- The Euclidean loop's invariants (`45_invmod.md` section 1): the coefficients carry the pair being divided, and the
degree of Y falls at every iteration. -/
def Obligations.EuclidCoefficientsCarryThePair : Prop :=
  (∀ (v : Word) (k : Nat),
    mulmod (euclidLoop k (euclidStart v)).A v =
      (divrem (euclidLoop k (euclidStart v)).X Config.p33).2.setWidth 32 ∧
    mulmod (euclidLoop k (euclidStart v)).B v = (euclidLoop k (euclidStart v)).Y) ∧
  (∀ e : Euclid, e.Y ≠ 0#32 → deg (euclidStep e).Y < deg e.Y)

/-- `invmod` is the inverse of the field (`45_invmod.md` section 3; `42_mulmod.md` section 3): defined for every
non-zero value, with no zero divisors. -/
def Obligations.InvmodIsTheFieldInverse : Prop :=
  invmod 0#32 = none ∧ invmod 1#32 = some 1#32 ∧
  (∀ v : Word, v ≠ 0#32 → ∃ r : Word, invmod v = some r ∧ mulmod r v = 1#32 ∧ invmod r = some v ∧
    r = powmod v 0xFFFFFFFE#64) ∧
  (∀ a b ra rb : Word, invmod a = some ra → invmod b = some rb → invmod (mulmod a b) = some (mulmod ra rb)) ∧
  (∀ a b : Word, mulmod a b = 0#32 → a = 0#32 ∨ b = 0#32)

/-! ## Host sequences -/

/-- The patch bytes (`47_host_forger.md` section 2): the bytes of `rev32(delta')`, least significant first, taken from
RES0 after one BITREV of `delta'`, and xored onto the four bytes of the store. -/
def Obligations.PatchBytesAreReversedWordLowFirst : Prop :=
  ∀ (delta : Word) (i : Nat), i < 4 →
    patchByte delta i = (rev32 delta).extractLsb' (8 * i) 8 ∧
    patchByte delta i = rev8 ((delta >>> (24 - 8 * i)).setWidth 8) ∧
    patchByte delta i = patchByteOfRes0 (rev32 delta) i ∧
    (∀ old : List Byte, (patchBytes (rev32 delta) old)[i]? = old[i]?.map (· ^^^ patchByte delta i)) ∧
    (∀ h : Session, h.block.err = 0#4 → bitrevOf delta h = .ok (rev32 delta,
      { block := { h.block with opa := delta, res0 := rev32 delta,
                                response := some { resp := .okay, rdata := some (rev32 delta) } }
        issued := h.issued ++ [.write .opa delta, .command .bitrev, .read .res0] }))

/-- Forging (`47_host_forger.md` section 2): from a block out of lockout, for any store, any offset with
`offset + 4 ≤ length` and any target, the forge succeeds, the digest of the new store is the target, and only the four
bytes at the offset can differ. The store is a list of bytes that holds still and whose reads and writes cannot fail
(log 9); a bit count of 2^64 or more is reduced modulo 2^32 − 1 (log 10). -/
def Obligations.ForgeReachesEveryTarget : Prop :=
  ∀ (restore : Bool) (store : List Byte) (o : Nat) (T : Word) (s : State), s.err = 0#4 → o + 4 ≤ store.length →
    (forge restore store o T s).failure = none ∧ digest (forge restore store o T s).store = T ∧
    (forge restore store o T s).store.length = store.length ∧
    (∀ i, i < o ∨ o + 4 ≤ i → (forge restore store o T s).store[i]? = store[i]?) ∧
    (forge restore store o T s).block.err = 0#4

/-- The forge on the block (`47_host_forger.md` section 2, rules R123, R124 and R128). The lines it issues are two
passes of one CRCB a byte, and between them BITREV of the digest and of the target, POWMOD, INVMOD, MULMOD, and BITREV
of `delta'`, whose RES0 gives the patch bytes; no line else. However a forge ends, the block is what those lines, run
from the start, make of it. The store is log 9's; the exponent is the bit count, log 10's reduction of it from 2^64
on. -/
def Obligations.ForgeIssuesTheListedCommands : Prop :=
  (∀ len o : Nat, (len - o) * 8 < 2 ^ 64 → (forgeExponent len o).toNat = (len - o) * 8) ∧
  (∀ (restore : Bool) (store : List Byte) (o : Nat) (T : Word) (s : State),
    handleAll (lineEvents (forge restore store o T s).issued) s = .next (forge restore store o T s).block) ∧
  ∀ (restore : Bool) (store : List Byte) (o : Nat) (T f : Word) (s : State), s.err = 0#4 → o + 4 ≤ store.length →
    let p := powmod 2#32 (forgeExponent store.length o)
    let delta := rev32 (digest store) ^^^ rev32 T
    let delta' := mulmod f delta
    let new := writeBytes store o (patchBytes (rev32 delta') ((store.drop o).take 4))
    let pass (m : List Byte) : List Line := .command .crcinit :: expand (.crcbytes m) ++ [.read .crcdigest]
    let reversal (v : Word) : List Line := [.write .opa v, .command .bitrev, .read .res0]
    invmod p = some f →
    (forge restore store o T s).issued =
      pass store ++ reversal (digest store) ++ reversal T ++
        expand (.pow 2#32 (forgeExponent store.length o)) ++ [.read .res0] ++ expand (.inv p) ++ [.read .res0] ++
        expand (.mul f delta) ++ [.read .res0] ++ reversal delta' ++ pass new ∧
    (forge restore store o T s).block.opa = delta' ∧ (forge restore store o T s).block.opb = delta ∧
    (forge restore store o T s).block.res0 = rev32 delta'

/-- Forging at the edges (`47_host_forger.md` section 2): past the end it fails with the store and the block untouched;
to the store's own digest it leaves the store unchanged. -/
def Obligations.ForgeAtTheEdges : Prop :=
  (∀ (restore : Bool) (store : List Byte) (o : Nat) (T : Word) (s : State), store.length < o + 4 →
    forge restore store o T s =
      { store := store, block := s, issued := [], failure := some .offsetOutOfRange }) ∧
  (∀ (restore : Bool) (store : List Byte) (o : Nat) (s : State), s.err = 0#4 → o + 4 ≤ store.length →
    (forge restore store o (digest store) s).store = store)
end

