-- ==== Sys2Proof/Laws/State.lean ====
section
/-! SUPPORT. What each update of State leaves in each field, and the fields after reset, once each, so that no later
proof unfolds a record update. -/

namespace Sys2Proof.Machine

@[simp] theorem State.setOpa_opa (s : State) (v : Word) : (s.setOpa v).opa = v := rfl
@[simp] theorem State.setOpa_opb (s : State) (v : Word) : (s.setOpa v).opb = s.opb := rfl
@[simp] theorem State.setOpa_expl (s : State) (v : Word) : (s.setOpa v).expl = s.expl := rfl
@[simp] theorem State.setOpa_exph (s : State) (v : Word) : (s.setOpa v).exph = s.exph := rfl
@[simp] theorem State.setOpa_res0 (s : State) (v : Word) : (s.setOpa v).res0 = s.res0 := rfl
@[simp] theorem State.setOpa_res1 (s : State) (v : Word) : (s.setOpa v).res1 = s.res1 := rfl
@[simp] theorem State.setOpa_crcstate (s : State) (v : Word) : (s.setOpa v).crcstate = s.crcstate := rfl
@[simp] theorem State.setOpa_err (s : State) (v : Word) : (s.setOpa v).err = s.err := rfl
@[simp] theorem State.setOpa_pending (s : State) (v : Word) : (s.setOpa v).pending = s.pending := rfl
@[simp] theorem State.setOpa_response (s : State) (v : Word) : (s.setOpa v).response = s.response := rfl

@[simp] theorem State.setOpb_opa (s : State) (v : Word) : (s.setOpb v).opa = s.opa := rfl
@[simp] theorem State.setOpb_opb (s : State) (v : Word) : (s.setOpb v).opb = v := rfl
@[simp] theorem State.setOpb_expl (s : State) (v : Word) : (s.setOpb v).expl = s.expl := rfl
@[simp] theorem State.setOpb_exph (s : State) (v : Word) : (s.setOpb v).exph = s.exph := rfl
@[simp] theorem State.setOpb_res0 (s : State) (v : Word) : (s.setOpb v).res0 = s.res0 := rfl
@[simp] theorem State.setOpb_res1 (s : State) (v : Word) : (s.setOpb v).res1 = s.res1 := rfl
@[simp] theorem State.setOpb_crcstate (s : State) (v : Word) : (s.setOpb v).crcstate = s.crcstate := rfl
@[simp] theorem State.setOpb_err (s : State) (v : Word) : (s.setOpb v).err = s.err := rfl
@[simp] theorem State.setOpb_pending (s : State) (v : Word) : (s.setOpb v).pending = s.pending := rfl
@[simp] theorem State.setOpb_response (s : State) (v : Word) : (s.setOpb v).response = s.response := rfl

@[simp] theorem State.setExpl_opa (s : State) (v : Word) : (s.setExpl v).opa = s.opa := rfl
@[simp] theorem State.setExpl_opb (s : State) (v : Word) : (s.setExpl v).opb = s.opb := rfl
@[simp] theorem State.setExpl_expl (s : State) (v : Word) : (s.setExpl v).expl = v := rfl
@[simp] theorem State.setExpl_exph (s : State) (v : Word) : (s.setExpl v).exph = s.exph := rfl
@[simp] theorem State.setExpl_res0 (s : State) (v : Word) : (s.setExpl v).res0 = s.res0 := rfl
@[simp] theorem State.setExpl_res1 (s : State) (v : Word) : (s.setExpl v).res1 = s.res1 := rfl
@[simp] theorem State.setExpl_crcstate (s : State) (v : Word) : (s.setExpl v).crcstate = s.crcstate := rfl
@[simp] theorem State.setExpl_err (s : State) (v : Word) : (s.setExpl v).err = s.err := rfl
@[simp] theorem State.setExpl_pending (s : State) (v : Word) : (s.setExpl v).pending = s.pending := rfl
@[simp] theorem State.setExpl_response (s : State) (v : Word) : (s.setExpl v).response = s.response := rfl

@[simp] theorem State.setExph_opa (s : State) (v : Word) : (s.setExph v).opa = s.opa := rfl
@[simp] theorem State.setExph_opb (s : State) (v : Word) : (s.setExph v).opb = s.opb := rfl
@[simp] theorem State.setExph_expl (s : State) (v : Word) : (s.setExph v).expl = s.expl := rfl
@[simp] theorem State.setExph_exph (s : State) (v : Word) : (s.setExph v).exph = v := rfl
@[simp] theorem State.setExph_res0 (s : State) (v : Word) : (s.setExph v).res0 = s.res0 := rfl
@[simp] theorem State.setExph_res1 (s : State) (v : Word) : (s.setExph v).res1 = s.res1 := rfl
@[simp] theorem State.setExph_crcstate (s : State) (v : Word) : (s.setExph v).crcstate = s.crcstate := rfl
@[simp] theorem State.setExph_err (s : State) (v : Word) : (s.setExph v).err = s.err := rfl
@[simp] theorem State.setExph_pending (s : State) (v : Word) : (s.setExph v).pending = s.pending := rfl
@[simp] theorem State.setExph_response (s : State) (v : Word) : (s.setExph v).response = s.response := rfl

@[simp] theorem State.setRes0_opa (s : State) (v : Word) : (s.setRes0 v).opa = s.opa := rfl
@[simp] theorem State.setRes0_opb (s : State) (v : Word) : (s.setRes0 v).opb = s.opb := rfl
@[simp] theorem State.setRes0_expl (s : State) (v : Word) : (s.setRes0 v).expl = s.expl := rfl
@[simp] theorem State.setRes0_exph (s : State) (v : Word) : (s.setRes0 v).exph = s.exph := rfl
@[simp] theorem State.setRes0_res0 (s : State) (v : Word) : (s.setRes0 v).res0 = v := rfl
@[simp] theorem State.setRes0_res1 (s : State) (v : Word) : (s.setRes0 v).res1 = s.res1 := rfl
@[simp] theorem State.setRes0_crcstate (s : State) (v : Word) : (s.setRes0 v).crcstate = s.crcstate := rfl
@[simp] theorem State.setRes0_err (s : State) (v : Word) : (s.setRes0 v).err = s.err := rfl
@[simp] theorem State.setRes0_pending (s : State) (v : Word) : (s.setRes0 v).pending = s.pending := rfl
@[simp] theorem State.setRes0_response (s : State) (v : Word) : (s.setRes0 v).response = s.response := rfl

@[simp] theorem State.setRes1_opa (s : State) (v : Word) : (s.setRes1 v).opa = s.opa := rfl
@[simp] theorem State.setRes1_opb (s : State) (v : Word) : (s.setRes1 v).opb = s.opb := rfl
@[simp] theorem State.setRes1_expl (s : State) (v : Word) : (s.setRes1 v).expl = s.expl := rfl
@[simp] theorem State.setRes1_exph (s : State) (v : Word) : (s.setRes1 v).exph = s.exph := rfl
@[simp] theorem State.setRes1_res0 (s : State) (v : Word) : (s.setRes1 v).res0 = s.res0 := rfl
@[simp] theorem State.setRes1_res1 (s : State) (v : Word) : (s.setRes1 v).res1 = v := rfl
@[simp] theorem State.setRes1_crcstate (s : State) (v : Word) : (s.setRes1 v).crcstate = s.crcstate := rfl
@[simp] theorem State.setRes1_err (s : State) (v : Word) : (s.setRes1 v).err = s.err := rfl
@[simp] theorem State.setRes1_pending (s : State) (v : Word) : (s.setRes1 v).pending = s.pending := rfl
@[simp] theorem State.setRes1_response (s : State) (v : Word) : (s.setRes1 v).response = s.response := rfl

@[simp] theorem State.setCrcstate_opa (s : State) (v : Word) : (s.setCrcstate v).opa = s.opa := rfl
@[simp] theorem State.setCrcstate_opb (s : State) (v : Word) : (s.setCrcstate v).opb = s.opb := rfl
@[simp] theorem State.setCrcstate_expl (s : State) (v : Word) : (s.setCrcstate v).expl = s.expl := rfl
@[simp] theorem State.setCrcstate_exph (s : State) (v : Word) : (s.setCrcstate v).exph = s.exph := rfl
@[simp] theorem State.setCrcstate_res0 (s : State) (v : Word) : (s.setCrcstate v).res0 = s.res0 := rfl
@[simp] theorem State.setCrcstate_res1 (s : State) (v : Word) : (s.setCrcstate v).res1 = s.res1 := rfl
@[simp] theorem State.setCrcstate_crcstate (s : State) (v : Word) : (s.setCrcstate v).crcstate = v := rfl
@[simp] theorem State.setCrcstate_err (s : State) (v : Word) : (s.setCrcstate v).err = s.err := rfl
@[simp] theorem State.setCrcstate_pending (s : State) (v : Word) : (s.setCrcstate v).pending = s.pending := rfl
@[simp] theorem State.setCrcstate_response (s : State) (v : Word) : (s.setCrcstate v).response = s.response := rfl

@[simp] theorem State.setErr_opa (s : State) (v : BitVec 4) : (s.setErr v).opa = s.opa := rfl
@[simp] theorem State.setErr_opb (s : State) (v : BitVec 4) : (s.setErr v).opb = s.opb := rfl
@[simp] theorem State.setErr_expl (s : State) (v : BitVec 4) : (s.setErr v).expl = s.expl := rfl
@[simp] theorem State.setErr_exph (s : State) (v : BitVec 4) : (s.setErr v).exph = s.exph := rfl
@[simp] theorem State.setErr_res0 (s : State) (v : BitVec 4) : (s.setErr v).res0 = s.res0 := rfl
@[simp] theorem State.setErr_res1 (s : State) (v : BitVec 4) : (s.setErr v).res1 = s.res1 := rfl
@[simp] theorem State.setErr_crcstate (s : State) (v : BitVec 4) : (s.setErr v).crcstate = s.crcstate := rfl
@[simp] theorem State.setErr_err (s : State) (v : BitVec 4) : (s.setErr v).err = v := rfl
@[simp] theorem State.setErr_pending (s : State) (v : BitVec 4) : (s.setErr v).pending = s.pending := rfl
@[simp] theorem State.setErr_response (s : State) (v : BitVec 4) : (s.setErr v).response = s.response := rfl

@[simp] theorem State.setPending_opa (s : State) (v : List Event) : (s.setPending v).opa = s.opa := rfl
@[simp] theorem State.setPending_opb (s : State) (v : List Event) : (s.setPending v).opb = s.opb := rfl
@[simp] theorem State.setPending_expl (s : State) (v : List Event) : (s.setPending v).expl = s.expl := rfl
@[simp] theorem State.setPending_exph (s : State) (v : List Event) : (s.setPending v).exph = s.exph := rfl
@[simp] theorem State.setPending_res0 (s : State) (v : List Event) : (s.setPending v).res0 = s.res0 := rfl
@[simp] theorem State.setPending_res1 (s : State) (v : List Event) : (s.setPending v).res1 = s.res1 := rfl
@[simp] theorem State.setPending_crcstate (s : State) (v : List Event) : (s.setPending v).crcstate = s.crcstate := rfl
@[simp] theorem State.setPending_err (s : State) (v : List Event) : (s.setPending v).err = s.err := rfl
@[simp] theorem State.setPending_pending (s : State) (v : List Event) : (s.setPending v).pending = v := rfl
@[simp] theorem State.setPending_response (s : State) (v : List Event) : (s.setPending v).response = s.response := rfl

@[simp] theorem State.setResponse_opa (s : State) (v : Option Response) : (s.setResponse v).opa = s.opa := rfl
@[simp] theorem State.setResponse_opb (s : State) (v : Option Response) : (s.setResponse v).opb = s.opb := rfl
@[simp] theorem State.setResponse_expl (s : State) (v : Option Response) : (s.setResponse v).expl = s.expl := rfl
@[simp] theorem State.setResponse_exph (s : State) (v : Option Response) : (s.setResponse v).exph = s.exph := rfl
@[simp] theorem State.setResponse_res0 (s : State) (v : Option Response) : (s.setResponse v).res0 = s.res0 := rfl
@[simp] theorem State.setResponse_res1 (s : State) (v : Option Response) : (s.setResponse v).res1 = s.res1 := rfl
@[simp] theorem State.setResponse_crcstate (s : State) (v : Option Response) : (s.setResponse v).crcstate = s.crcstate := rfl
@[simp] theorem State.setResponse_err (s : State) (v : Option Response) : (s.setResponse v).err = s.err := rfl
@[simp] theorem State.setResponse_pending (s : State) (v : Option Response) : (s.setResponse v).pending = s.pending := rfl
@[simp] theorem State.setResponse_response (s : State) (v : Option Response) : (s.setResponse v).response = v := rfl

@[simp] theorem State.reset_opa : State.reset.opa = 0#32 := rfl
@[simp] theorem State.reset_opb : State.reset.opb = 0#32 := rfl
@[simp] theorem State.reset_expl : State.reset.expl = 0#32 := rfl
@[simp] theorem State.reset_exph : State.reset.exph = 0#32 := rfl
@[simp] theorem State.reset_res0 : State.reset.res0 = 0#32 := rfl
@[simp] theorem State.reset_res1 : State.reset.res1 = 0#32 := rfl
@[simp] theorem State.reset_crcstate : State.reset.crcstate = 0xFFFFFFFF#32 := rfl
@[simp] theorem State.reset_err : State.reset.err = 0#4 := rfl
@[simp] theorem State.reset_pending : State.reset.pending = [] := rfl
@[simp] theorem State.reset_response : State.reset.response = none := rfl

/-- Presenting events and presenting others keeps the last. -/
@[simp] theorem State.setPending_setPending (s : State) (es fs : List Event) :
    (s.setPending es).setPending fs = s.setPending fs := rfl

/-- A state whose pending list is put back is the same state. -/
theorem State.setPending_self (s : State) : s.setPending s.pending = s := rfl

@[simp] theorem State.setPending_locked (s : State) (es : List Event) : (s.setPending es).locked = s.locked := rfl
@[simp] theorem State.setPending_readSlot (s : State) (es : List Event) (r : Slot) :
    (s.setPending es).readSlot r = s.readSlot r := by cases r <;> rfl
@[simp] theorem State.setPending_exponent (s : State) (es : List Event) :
    (s.setPending es).exponent = s.exponent := rfl

end Sys2Proof.Machine
end

