-- ==== Sys2Proof/Laws/Ops.lean ====
section
/-! SUPPORT. For each shared operation, once, everything it can do: what it answers, in the form later proofs cite
instead of unfolding it. -/

namespace Sys2Proof.Machine

theorem locked_iff (s : State) : s.locked = true ↔ s.err ≠ 0#4 := by simp [State.locked]

theorem not_locked_iff (s : State) : s.locked = false ↔ s.err = 0#4 := by simp [State.locked]

/-- A state is plain data: it is determined by its ten fields. -/
theorem State.eq_of_fields {s t : State} (h : sameBlock s t) (hp : t.pending = s.pending)
    (hr : t.response = s.response) : t = s := by
  obtain ⟨h1, h2, h3, h4, h5, h6, h7, h8⟩ := h
  cases s; cases t; simp_all

theorem complete_next (s t : State) :
    complete s = .next t ↔ t = s.setResponse (writeResponse .okay) := by
  simp [complete, eq_comm]

theorem turnAway_next (s t : State) :
    turnAway s = .next t ↔ t = s.setResponse (writeResponse .error) := by
  simp [turnAway, eq_comm]

theorem answerRead_next (v : Word) (s t : State) :
    answerRead v s = .next t ↔ t = s.setResponse (readResponse .okay v) := by
  simp [answerRead, eq_comm]

theorem turnAwayRead_next (s t : State) :
    turnAwayRead s = .next t ↔ t = s.setResponse (readResponse .error 0#32) := by
  simp [turnAwayRead, eq_comm]

theorem raiseFault_next (c : FaultCode) (s t : State) :
    raiseFault c s = .next t ↔ t = (s.setErr (faultNumber c)).setResponse (writeResponse .error) := by
  simp [raiseFault, eq_comm]

theorem faultNumber_legal (c : FaultCode) : (faultNumber c).toNat ≤ 3 ∧ faultNumber c ≠ 0#4 := by
  cases c <;> decide

/-- The lockout test: refused while ERR is not zero, else the body's answer. -/
theorem unlessLocked_next (s t : State) (body : State → Result) :
    unlessLocked s body = .next t ↔
      (s.err ≠ 0#4 ∧ t = s.setResponse (writeResponse .error)) ∨ (s.err = 0#4 ∧ body s = .next t) := by
  unfold unlessLocked
  by_cases h : s.err = 0#4
  · simp [(not_locked_iff s).2 h, h]
  · simp [(locked_iff s).2 h, h, turnAway_next]

theorem unlessLocked_open {s : State} (h : s.err = 0#4) (body : State → Result) :
    unlessLocked s body = body s := by
  simp [unlessLocked, (not_locked_iff s).2 h]

theorem unlessLocked_shut {s : State} (h : s.err ≠ 0#4) (body : State → Result) :
    unlessLocked s body = turnAway s := by
  simp [unlessLocked, (locked_iff s).2 h]

theorem illegalCommand_next (s t : State) :
    illegalCommand s = .next t ↔
      (s.err ≠ 0#4 ∧ t = s.setResponse (writeResponse .error)) ∨
      (s.err = 0#4 ∧ t = (s.setErr 3#4).setResponse (writeResponse .error)) := by
  simp [illegalCommand, unlessLocked_next, raiseFault_next, faultNumber]

/-- A read: an access error, or the value of a readable slot. -/
theorem readTransaction_next (off : BitVec 6) (size : AccessSize) (s t : State) :
    readTransaction off size s = .next t ↔
      ((wholeWord off size = false ∨ (slotAt off).bind s.readSlot = none) ∧
        t = s.setResponse (readResponse .error 0#32)) ∨
      (wholeWord off size = true ∧
        ∃ v, (slotAt off).bind s.readSlot = some v ∧ t = s.setResponse (readResponse .okay v)) := by
  unfold readTransaction
  cases hw : wholeWord off size
  · simp [turnAwayRead_next]
  · cases hv : (slotAt off).bind s.readSlot <;> simp [turnAwayRead_next, answerRead_next]

/-- A write: an access error, or the effect of a slot. -/
theorem writeTransaction_next (off : BitVec 6) (size : AccessSize) (d : Word) (s t : State) :
    writeTransaction off size d s = .next t ↔
      ((wholeWord off size = false ∨ slotAt off = none) ∧ t = s.setResponse (writeResponse .error)) ∨
      (wholeWord off size = true ∧ ∃ r, slotAt off = some r ∧ writeSlot d s r = .next t) := by
  unfold writeTransaction
  cases hw : wholeWord off size
  · simp [turnAway_next]
  · cases hv : slotAt off <;> simp [turnAway_next]

/-- The command step: the decoded command, or the illegal word. -/
theorem commandWrite_decoded {w : Word} {i : Instr} (h : decode w = .ok i) (s : State) :
    commandWrite w s = exec i s := by
  simp [commandWrite, h]

theorem commandWrite_illegal {w : Word} {r : DecodeError} (h : decode w = .error r) (s : State) :
    commandWrite w s = illegalCommand s := by
  simp [commandWrite, h]

/-- The word slots of the window, by offset. -/
theorem slotAt_slotOffset (r : Slot) : slotAt (slotOffset r) = some r := by cases r <;> rfl

theorem slotOffset_of_slotAt (off : BitVec 6) (r : Slot) (h : slotAt off = some r) : off = slotOffset r := by
  revert h; revert off; cases r <;> decide

theorem wholeWord_slotOffset (r : Slot) : wholeWord (slotOffset r) .four = true := by cases r <;> rfl

/-- The write of a command word is the command step. -/
theorem handle_commandEvent (w : Word) (s : State) : handle (commandEvent w) s = commandWrite w s := by
  simp [handle, commandEvent, transact, writeTransaction, wholeWord_slotOffset, slotAt_slotOffset, writeSlot]

theorem step_idle {s : State} (h : s.pending = []) : step s = .next s := by
  simp [step, h, idle]

/-- A step takes the oldest event. -/
theorem step_event {s : State} {e : Event} {es : List Event} (h : s.pending = e :: es) :
    step s = handle e (s.setPending es) := by
  simp [step, h]

theorem handleAll_nil (s : State) : handleAll [] s = .next s := rfl

theorem handleAll_cons_next {e : Event} {s t : State} (h : handle e s = .next t) (es : List Event) :
    handleAll (e :: es) s = handleAll es t := by
  simp [handleAll, h]

end Sys2Proof.Machine
end

