-- ==== Sys2Proof/Laws/Forger.lean ====
section
/-! SUPPORT. What the host's sequences answer, and what they record: one line, lines in order, a read after lines, a
register write, a command. -/

namespace Sys2Proof.Machine

@[simp] theorem Session.after_block (h : Session) (l : Line) (t : State) : (h.after l t).block = t := rfl
@[simp] theorem Session.after_issued (h : Session) (l : Line) (t : State) :
    (h.after l t).issued = h.issued ++ [l] := rfl
@[simp] theorem Session.endsWith_store (h : Session) (m : List Byte) (f : Option ForgeFailure) :
    (h.endsWith m f).store = m := rfl
@[simp] theorem Session.endsWith_block (h : Session) (m : List Byte) (f : Option ForgeFailure) :
    (h.endsWith m f).block = h.block := rfl
@[simp] theorem Session.endsWith_issued (h : Session) (m : List Byte) (f : Option ForgeFailure) :
    (h.endsWith m f).issued = h.issued := rfl
@[simp] theorem Session.endsWith_failure (h : Session) (m : List Byte) (f : Option ForgeFailure) :
    (h.endsWith m f).failure = f := rfl

/-- The session `k` continues `h` by the lines `ls`: it recorded them, and its block is what the block's own step leaves
after them. -/
def Session.continuesBy (h : Session) (ls : List Line) (k : Session) : Prop :=
  k.issued = h.issued ++ ls ∧ handleAll (lineEvents ls) h.block = .next k.block

theorem Session.continuesBy_nil (h : Session) : h.continuesBy [] h := ⟨by simp, rfl⟩

theorem Session.continuesBy_cons {h k m : Session} {l : Line} {ls : List Line}
    (h1 : h.continuesBy [l] k) (h2 : k.continuesBy ls m) : h.continuesBy (l :: ls) m := by
  refine ⟨by simp [h2.1, h1.1], ?_⟩
  have h3 := h1.2
  simp only [lineEvents, List.map_cons, List.map_nil, handleAll] at h3 ⊢
  split at h3
  · injection h3 with h3
    subst h3
    exact h2.2
  · cases h3
  · cases h3

theorem Session.continuesBy_append {h k m : Session} {as bs : List Line}
    (h1 : h.continuesBy as k) (h2 : k.continuesBy bs m) : h.continuesBy (as ++ bs) m := by
  refine ⟨by simp [h2.1, h1.1], ?_⟩
  have key : ∀ (xs : List Event) (s : State), handleAll xs s = .next k.block →
      handleAll (xs ++ lineEvents bs) s = .next m.block := by
    intro xs
    induction xs with
    | nil => intro s hs; cases hs; exact h2.2
    | cons e xs ih =>
      intro s hs
      simp only [handleAll, List.cons_append] at hs ⊢
      split at hs
      · exact ih _ hs
      · cases hs
      · cases hs
  have happ : lineEvents (as ++ bs) = lineEvents as ++ lineEvents bs := by simp [lineEvents]
  rw [happ]
  exact key _ _ h1.2

@[simp] theorem andThen_ok {α β : Type} (v : α) (h : Session) (f : α → Session → HostRun β) :
    andThen (.ok (v, h)) f = f v h := rfl

@[simp] theorem andThen_error {α β : Type} (e : ForgeFailure × Session) (f : α → Session → HostRun β) :
    andThen (.error e) f = .error e := rfl

/-- A sequence of two parts that met no ERROR ran both. -/
theorem andThen_eq_ok {α β : Type} {r : HostRun α} {f : α → Session → HostRun β} {w : β} {k : Session}
    (hk : andThen r f = .ok (w, k)) : ∃ v h, r = .ok (v, h) ∧ f v h = .ok (w, k) := by
  cases r with
  | ok p => exact ⟨p.1, p.2, rfl, hk⟩
  | error e => cases hk

/-- A line answered OKAY. -/
theorem issue_okay {l : Line} {h : Session} {t : State} {v : Option Word}
    (ht : handle (.bus (lineTransaction l)) h.block = .next t)
    (hr : t.response = some { resp := .okay, rdata := v }) : issue l h = .ok (v, h.after l t) := by
  simp only [handle] at ht
  simp [issue, ht, hr]

/-- A line that was issued with no ERROR is recorded, and the block has taken it. -/
theorem issue_continues {l : Line} {h k : Session} {v : Option Word} (hk : issue l h = .ok (v, k)) :
    h.continuesBy [l] k ∧ k.block.response = some { resp := .okay, rdata := v } := by
  unfold issue at hk
  split at hk
  · rename_i t ht
    split at hk
    · rename_i w hw
      injection hk with hk
      injection hk with h1 h2
      subst h1 h2
      exact ⟨⟨rfl, by simp [lineEvents, handleAll, handle, ht]⟩, hw⟩
    · cases hk
  · cases hk
  · cases hk

@[simp] theorem issueAll_nil (h : Session) : issueAll [] h = .ok ((), h) := rfl

theorem issueAll_cons {l : Line} {h k : Session} {v : Option Word} (hk : issue l h = .ok (v, k)) (ls : List Line) :
    issueAll (l :: ls) h = issueAll ls k := by
  simp [issueAll, hk]

theorem issueAll_append (as bs : List Line) {h k : Session} (hk : issueAll as h = .ok ((), k)) :
    issueAll (as ++ bs) h = issueAll bs k := by
  induction as generalizing h with
  | nil => cases hk; rfl
  | cons l ls ih =>
    obtain ⟨w, m, hm, hk⟩ := andThen_eq_ok hk
    rw [List.cons_append, issueAll_cons hm]
    exact ih hk

/-- Lines issued with no ERROR are recorded in order, and the block has taken them. -/
theorem issueAll_continues {ls : List Line} {h k : Session} (hk : issueAll ls h = .ok ((), k)) :
    h.continuesBy ls k := by
  induction ls generalizing h with
  | nil => cases hk; exact Session.continuesBy_nil _
  | cons l ls ih =>
    obtain ⟨w, m, hm, hk⟩ := andThen_eq_ok hk
    exact Session.continuesBy_cons (issue_continues hm).1 (ih hk)

/-- A register read by the host. -/
theorem fetch_okay {r : Slot} {v : Word} {h : Session} (hv : h.block.readSlot r = some v) :
    fetch r h = .ok (v, h.after (.read r) (h.block.setResponse (readResponse .okay v))) := by
  have hi : issue (.read r) h = .ok (some v, h.after (.read r) (h.block.setResponse (readResponse .okay v))) :=
    issue_okay ((readTransaction_next _ _ _ _).2
      (.inr ⟨wholeWord_slotOffset r, v, by rw [slotAt_slotOffset]; exact hv, rfl⟩)) rfl
  simp [fetch, hi]

/-- Lines, then a read: all of them recorded and taken. -/
theorem issueThenFetch_continues {ls : List Line} {r : Slot} {v : Word} {h k : Session}
    (hk : issueThenFetch ls r h = .ok (v, k)) : h.continuesBy (ls ++ [.read r]) k := by
  obtain ⟨w, m, hm, hk⟩ := andThen_eq_ok hk
  unfold fetch at hk
  split at hk
  · rename_i w n hn
    injection hk with hk
    injection hk with _ h2
    subst h2
    exact Session.continuesBy_append (issueAll_continues hm) (issue_continues hn).1
  · cases hk
  · cases hk

/-- An operand register written by the host. -/
theorem issue_writeOpa (v : Word) (h : Session) :
    issue (.write .opa v) h = .ok (none, h.after (.write .opa v) ((h.block.setOpa v).setResponse (writeResponse .okay))) :=
  issue_okay rfl rfl

/-- A command issued by the host is its execution. -/
theorem issue_command {i : Instr} {h : Session} {t : State} {v : Option Word} (hd : decode (encode i) = .ok i)
    (ht : exec i h.block = .next t) (hr : t.response = some { resp := .okay, rdata := v }) :
    issue (.command i) h = .ok (v, h.after (.command i) t) := by
  refine issue_okay ?_ hr
  have := handle_commandEvent (encode i) h.block
  rw [commandWrite_decoded hd, ht] at this
  exact this

end Sys2Proof.Machine
end

