-- ==== Sys2Proof/Laws/Functions.lean ====
section
/-! SUPPORT. The equations of the arithmetic and digest functions, case by case, so that proofs rewrite with them
instead of unfolding. -/

namespace Sys2Proof.Machine

@[simp] theorem degBelow_zero {w : Nat} (v : BitVec w) : degBelow v 0 = -1 := rfl

theorem degBelow_succ_set {w n : Nat} {v : BitVec w} (h : v.getLsbD n = true) : degBelow v (n + 1) = n := by
  simp [degBelow, h]

theorem degBelow_succ_clear {w n : Nat} {v : BitVec w} (h : v.getLsbD n = false) :
    degBelow v (n + 1) = degBelow v n := by
  simp [degBelow, h]

theorem degBelow_lt {w : Nat} (v : BitVec w) (n : Nat) : degBelow v n < n := by
  induction n with
  | zero => simp
  | succ n ih =>
    cases h : v.getLsbD n
    · rw [degBelow_succ_clear h]; omega
    · rw [degBelow_succ_set h]; omega

theorem neg_one_le_degBelow {w : Nat} (v : BitVec w) (n : Nat) : -1 ≤ degBelow v n := by
  induction n with
  | zero => simp
  | succ n ih =>
    cases h : v.getLsbD n
    · rw [degBelow_succ_clear h]; exact ih
    · rw [degBelow_succ_set h]; omega

/-- A degree lies between -1 and the width. -/
theorem deg_bounds {w : Nat} (v : BitVec w) : -1 ≤ deg v ∧ deg v < w :=
  ⟨neg_one_le_degBelow v w, degBelow_lt v w⟩

@[simp] theorem mulmodLoop_fuel_zero {w : Nat} (x : Word) (y : BitVec w) (z : Word) : mulmodLoop 0 x y z = z := rfl

@[simp] theorem mulmodLoop_done {w : Nat} (n : Nat) (x z : Word) : mulmodLoop n x (0#w) z = z := by
  cases n <;> simp [mulmodLoop]

theorem mulmodLoop_more {w : Nat} (n : Nat) (x z : Word) {y : BitVec w} (h : y ≠ 0#w) :
    mulmodLoop (n + 1) x y z = mulmodLoop n (double x) (y >>> 1) (if y.getLsbD 0 then z ^^^ x else z) := by
  simp [mulmodLoop, h]

@[simp] theorem powmodLoop_done (n : Nat) (b z : Word) : powmodLoop n b 0#64 z = z := by
  cases n <;> simp [powmodLoop]

theorem powmodLoop_more (n : Nat) (b z : Word) {e : Exponent} (h : e ≠ 0#64) :
    powmodLoop (n + 1) b e z =
      powmodLoop n (mulmod b b) (e >>> 1) (if e.getLsbD 0 then mulmod z b else z) := by
  simp [powmodLoop, h]

@[simp] theorem divremLoop_zero {w : Nat} (y : BitVec w) (dy : Nat) (x q : BitVec w) :
    divremLoop y dy 0 x q = (q, x) := rfl

theorem divremLoop_set {w : Nat} (y : BitVec w) (dy i : Nat) {x : BitVec w} (q : BitVec w)
    (h : x.getLsbD (i + dy) = true) :
    divremLoop y dy (i + 1) x q = divremLoop y dy i (x ^^^ (y <<< i)) (q ||| (1#w <<< i)) := by
  simp [divremLoop, h]

theorem divremLoop_clear {w : Nat} (y : BitVec w) (dy i : Nat) {x : BitVec w} (q : BitVec w)
    (h : x.getLsbD (i + dy) = false) : divremLoop y dy (i + 1) x q = divremLoop y dy i x q := by
  simp [divremLoop, h]

theorem euclidLoop_done {e : Euclid} (n : Nat) (h : e.Y = 0#32) : euclidLoop n e = e := by
  cases n <;> simp [euclidLoop, h]

theorem euclidLoop_more {e : Euclid} (n : Nat) (h : e.Y ≠ 0#32) :
    euclidLoop (n + 1) e = euclidLoop n (euclidStep e) := by
  simp [euclidLoop, h]

@[simp] theorem crcBytes_nil (s : Word) : crcBytes s [] = s := rfl

@[simp] theorem crcBytes_cons (s : Word) (b : Byte) (m : List Byte) :
    crcBytes s (b :: m) = crcBytes (crcStep s b) m := rfl

end Sys2Proof.Machine
end

