-- ==== Sys2Proof/Laws/PerInstr.lean ====
section
/-! SUPPORT. Families of facts about every instruction as syntax, one lemma per constructor. -/

namespace Sys2Proof.Laws

/-- The word of the instruction lies in its own row of the opcode map and is legal (`30_encoding.md` R63, R64). -/
def EncodesOwnRow.Statement (i : Instr) : Prop := selectsRow (encode i) i ∧ legalWord (encode i) = true

theorem EncodesOwnRow.nop : EncodesOwnRow.Statement .nop := ⟨by rfl, by rfl⟩
theorem EncodesOwnRow.clrerr : EncodesOwnRow.Statement .clrerr := ⟨by rfl, by rfl⟩
theorem EncodesOwnRow.bitrev : EncodesOwnRow.Statement .bitrev := ⟨by rfl, by rfl⟩
theorem EncodesOwnRow.deg : EncodesOwnRow.Statement .deg := ⟨by rfl, by rfl⟩
theorem EncodesOwnRow.mulmod : EncodesOwnRow.Statement .mulmod := ⟨by rfl, by rfl⟩
theorem EncodesOwnRow.powmod : EncodesOwnRow.Statement .powmod := ⟨by rfl, by rfl⟩
theorem EncodesOwnRow.divrem : EncodesOwnRow.Statement .divrem := ⟨by rfl, by rfl⟩
theorem EncodesOwnRow.invmod : EncodesOwnRow.Statement .invmod := ⟨by rfl, by rfl⟩
theorem EncodesOwnRow.crcinit : EncodesOwnRow.Statement .crcinit := ⟨by rfl, by rfl⟩
theorem EncodesOwnRow.crcb (imm8 : Byte) : EncodesOwnRow.Statement (.crcb imm8) := by
  unfold EncodesOwnRow.Statement selectsRow
  revert imm8; decide +kernel
theorem EncodesOwnRow.crcload : EncodesOwnRow.Statement .crcload := ⟨by rfl, by rfl⟩

end Sys2Proof.Laws
end

