-- ==== Sys2Proof/Tests/Slice0.lean ====
section
/-! SUPPORT. Own tests: the checks of WellFormed, every command's word, one or two steps per command with results from
`95_test_vectors.md`, and for each statement with hypotheses a state that meets them. -/

namespace Sys2Proof.Tests

open Sys2Proof.Machine

/-- A state out of lockout with given operands. -/
def operands (a b : Word) : State := { State.reset with opa := a, opb := b }

/-- A state in lockout with a given code. -/
def lockedWith (c : BitVec 4) : State := { State.reset with err := c }

/-- What a step or command leaves, for looking at a few fields. -/
def left (r : Result) : State :=
  match r with
  | .next t => t
  | .fault _ => State.reset
  | .refused _ => State.reset

def answeredOkay : Option Response := some { resp := .okay, rdata := none }
def answeredError : Option Response := some { resp := .error, rdata := none }

/-! ## WellFormed refuses what R64 refuses, clause by clause (section 8 of the vectors) -/

theorem test_wf_high_half_refused : highHalfClear 0x00010020#32 = false ∧ legalWord 0x00010020#32 = false := by decide
theorem test_wf_unlisted_opcode_refused : opcodeListed 0x00000002#32 = false ∧ legalWord 0x00000002#32 = false := by
  decide
theorem test_wf_immediate_in_format_z_refused :
    opcodeListed 0x00000120#32 = false ∧ legalWord 0x00000101#32 = false := by decide
theorem test_wf_every_immediate_accepted : ∀ b : Byte, Instr.wf (.crcb b) = true := by decide

/-! ## Decode: every command's word, written out from the opcode map (R63) -/

theorem test_decode_nop : decode 0b00000000000000000000000000000000#32 = .ok .nop := by rfl
theorem test_decode_clrerr : decode 0b00000000000000000000000000000001#32 = .ok .clrerr := by rfl
theorem test_decode_bitrev : decode 0b00000000000000000000000000010000#32 = .ok .bitrev := by rfl
theorem test_decode_deg : decode 0b00000000000000000000000000010001#32 = .ok .deg := by rfl
theorem test_decode_mulmod : decode 0b00000000000000000000000000100000#32 = .ok .mulmod := by rfl
theorem test_decode_powmod : decode 0b00000000000000000000000000100001#32 = .ok .powmod := by rfl
theorem test_decode_divrem : decode 0b00000000000000000000000000100010#32 = .ok .divrem := by rfl
theorem test_decode_invmod : decode 0b00000000000000000000000000100011#32 = .ok .invmod := by rfl
theorem test_decode_crcinit : decode 0b00000000000000000000000000110000#32 = .ok .crcinit := by rfl
theorem test_decode_crcb : decode 0b00000000000000000110011100110001#32 = .ok (.crcb 0x67#8) := by decide
theorem test_decode_crcload : decode 0b00000000000000000000000000110010#32 = .ok .crcload := by rfl
theorem test_decode_refuses_by_name :
    decode 0x80000000#32 = .error .highHalfNonZero ∧ decode 0x00000033#32 = .error .unlistedOpcode ∧
      decode 0x00000100#32 = .error .immediateNonZero := by decide
theorem test_decodeTableWord : decodeTableWord 32 0x6731 = some (.crcb 0x67#8) ∧ decodeTableWord 32 0x24 = none := by
  decide
theorem test_fetch_word_runs :
    (left (step ((operands 7 2).withFetchWord 32 0x22))).res0 = 3#32 ∧
      (left (step ((operands 7 2).withFetchWord 32 0x22))).pending = [] := by decide

/-! ## One step per command (sections 2 to 8 of the vectors) -/

theorem test_nop_refused_in_lockout : left (exec .nop (lockedWith 1)) = { lockedWith 1 with response := answeredError } := by
  decide
theorem test_clrerr_in_lockout : left (exec .clrerr (lockedWith 2)) = { State.reset with response := answeredOkay } := by
  decide
theorem test_bitrev : (left (exec .bitrev (operands 0x12345678 0))).res0 = 0x1E6A2C48#32 := by decide
theorem test_deg : (left (exec .deg (operands 0x04C11DB7 0))).res0 = 0x1A#32 := by decide
theorem test_deg_of_zero :
    (left (exec .deg (operands 0 0))).res0 = 0xFFFFFFFF#32 ∧ (left (exec .deg (operands 0 0))).err = 0#4 := by
  decide
theorem test_mulmod : (left (exec .mulmod (operands 0xDEADBEEF 0x12345678))).res0 = 0x2378F06E#32 := by decide
theorem test_powmod_uses_both_halves :
    (left (exec .powmod { operands 0xDEADBEEF 0 with exph := 0x01234567#32, expl := 0x89ABCDEF#32 })).res0 =
      0xA3EC5342#32 := by decide +kernel
theorem test_divrem :
    (left (exec .divrem (operands 0xDEADBEEF 0x12345678))).res0 = 0xC#32 ∧
      (left (exec .divrem (operands 0xDEADBEEF 0x12345678))).res1 = 0x07DE54CF#32 := by decide
theorem test_divrem_by_zero :
    left (exec .divrem (operands 0 0)) = { State.reset with err := 1#4, response := answeredError } := by decide
theorem test_invmod : (left (exec .invmod (operands 0xDEADBEEF 0))).res0 = 0xBEB7FFB2#32 := by decide
theorem test_invmod_of_zero :
    left (exec .invmod (operands 0 0)) = { State.reset with err := 2#4, response := answeredError } := by decide
theorem test_crcinit : (left (exec .crcinit { State.reset with crcstate := 0x294AAA5F#32 })).crcstate = 0xFFFFFFFF#32 := by
  decide
theorem test_crcb : (left (exec (.crcb 0xAB) { State.reset with crcstate := 0x12345678#32 })).crcstate = 0x1FC8B738#32 := by
  decide
theorem test_crcb_in_lockout_not_digested : (left (exec (.crcb 0x41) (lockedWith 1))).crcstate = 0xFFFFFFFF#32 := by
  decide
theorem test_crcload : (left (exec .crcload (operands 0x775EE79C 0))).crcstate = 0x88A11863#32 := by decide

/-- R64, R135: an illegal word in lockout does not change the code. -/
theorem test_illegal_in_lockout_keeps_code : (left (commandWrite 0x00000120#32 (lockedWith 2))).err = 2#4 := by
  decide
theorem test_illegal_out_of_lockout : (left (commandWrite 0x00000120#32 State.reset)).err = 3#4 := by decide

/-- `RD(0x1A, 4)` of section 8. -/
theorem test_misaligned_read :
    (left (transact (.rd 0x1A#6 .four) State.reset)).response = some { resp := .error, rdata := some 0#32 } := by
  decide

/-- Property 8 of the document, end to end at the boundary `o + 4 = L`, with the block's end state (program P7). -/
theorem test_forge_abcd :
    let r := forge false [0x61#8, 0x62#8, 0x63#8, 0x64#8] 0 0x12345678#32 State.reset
    r.store = [0xB2#8, 0x07#8, 0x1E#8, 0xB7#8] ∧ r.failure = none ∧
      r.block = { State.reset with opa := 0xCBA6BECB#32, opb := 0x96D96DFF#32, expl := 0x20#32, res0 := 0xD37D65D3#32,
                                   crcstate := 0xEDCBA987#32,
                                   response := some { resp := .okay, rdata := some 0x12345678#32 } } := by
  decide +kernel

/-- The lines issued are those of program P7, one by one. -/
theorem test_forge_abcd_lines :
    (forge false [0x61#8, 0x62#8, 0x63#8, 0x64#8] 0 0x12345678#32 State.reset).issued =
      [.command .crcinit, .command (.crcb 0x61), .command (.crcb 0x62), .command (.crcb 0x63), .command (.crcb 0x64),
       .read .crcdigest, .write .opa 0xED82CD11, .command .bitrev, .read .res0,
       .write .opa 0x12345678, .command .bitrev, .read .res0,
       .write .opa 2, .write .expl 0x20, .write .exph 0, .command .powmod, .read .res0,
       .write .opa 0x04C11DB7, .command .invmod, .read .res0,
       .write .opa 0xCBF1ACDA, .write .opb 0x96D96DFF, .command .mulmod, .read .res0,
       .write .opa 0xCBA6BECB, .command .bitrev, .read .res0,
       .command .crcinit, .command (.crcb 0xB2), .command (.crcb 0x07), .command (.crcb 0x1E), .command (.crcb 0xB7),
       .read .crcdigest] := by
  decide +kernel
theorem test_parse_deadbeef : parseChecksum ['D', 'E', 'A', 'D', 'B', 'E', 'E', 'F'] = some 0xDEADBEEF#32 := by
  decide

/-! ## For each statement with hypotheses, a state and operands that meet them -/

theorem witness_DecodeEncodeAgree : Instr.wf (.crcb 0xFF) = true ∧ decode 0x0000FF31#32 = .ok (.crcb 0xFF) := by
  decide
theorem witness_ExactlyTheLegalWordsExecute :
    ({ State.reset with pending := [commandEvent 2#32] } : State).pending = commandEvent 2#32 :: [] ∧
      State.reset.err = 0#4 ∧ legalWord 2#32 = false ∧ legalWord 0x32#32 = true := by decide
theorem witness_WordsDecodeByTheirRow : selectsRow 0xFF31#32 (.crcb 0) ∧ selectsRow 0#32 .nop := by
  unfold selectsRow; decide
theorem witness_ImmediateAndExponentAssembly : decode 0x00000031#32 = .ok (.crcb 0) := by decide
theorem witness_StepRunsTheDecodedCommand :
    ({ State.reset with pending := [commandEvent 0x20#32, .reset] } : State).pending = commandEvent 0x20#32 :: [.reset] ∧
      decode 0x20#32 = .ok .mulmod := by decide
theorem witness_CommandStepBranches :
    (lockedWith 3).err ≠ 0#4 ∧ (2#32 : Word) ≠ 1#32 ∧ State.reset.err = 0#4 ∧ legalWord 2#32 = false ∧
      legalWord 0x22#32 = true := by decide
theorem witness_EveryStepAnswersANextState : State.reset.pending = [] := by rfl
theorem witness_RunIsFoldOverEvents :
    handleAll [commandEvent 0x30#32, .reset] { operands 5 6 with pending := [] } = .next State.reset := by rfl
theorem witness_StepIgnoresLaterEvents :
    step { operands 5 6 with pending := .reset :: [commandEvent 0#32] } =
      .next { State.reset with pending := [commandEvent 0#32] } := by rfl
theorem witness_NarrowOrUnalignedAccessHasNoEffect :
    AccessSize.one ≠ .four ∧ AccessSize.two ≠ .four ∧ (0x3D#6).toNat % 4 ≠ 0 ∧ (0x01#6).toNat % 4 ≠ 0 := by decide
theorem witness_ForbiddenDirectionHasNoEffect :
    (0x00#6).toNat % 4 = 0 ∧ (0x3C#6).toNat % 4 = 0 ∧ 0x28 ≤ (0x3C#6).toNat ∧ 0x28 ≤ (0x28#6).toNat ∧
      (0x04#6).toNat = 0x04 ∧ (0x24#6).toNat = 0x24 := by decide
theorem witness_AcceptedWritesWriteTheirRegister :
    (0x14#6 ∈ [0x08#6, 0x0C#6, 0x10#6, 0x14#6]) ∧ (0x18#6).toNat / 4 ≠ (0x14#6).toNat / 4 ∧
      (0x13#6).toNat / 4 ≠ (0x14#6).toNat / 4 ∧
      (left (step { State.reset with pending := [.bus (.wr 0x14#6 .four 9#32)] })).exph = 9#32 := by decide
theorem witness_WindowIsLittleEndian :
    (operands 0xDEADBEEF 0).readSlot .opa = some 0xDEADBEEF#32 ∧ State.reset.readSlot .crcdigest = some 0#32 ∧
      (operands 0xDEADBEEF 0).windowByte 0x08#6 = some 0xEF#8 := by decide
theorem witness_HostAddressesReachTheWindow : Config.base + 64 ≤ Config.base + 64 := by omega

theorem witness_NopChangesNothing : State.reset.err = 0#4 ∧ (lockedWith 3).err ≠ 0#4 := by decide
theorem witness_ClrerrClearsErrOnly :
    (Instr.nop ≠ .clrerr) ∧ (lockedWith 3).err ≠ 0#4 ∧
    handle (commandEvent 1#32) (lockedWith 3) = .next (left (handle (commandEvent 1#32) (lockedWith 3))) ∧
    (left (handle (commandEvent 1#32) (lockedWith 3))).err = 0#4 := ⟨by decide, by decide, rfl, by decide⟩
theorem witness_BitrevReversesOpaIntoRes0 : (operands 1 0).err = 0#4 ∧ 31 < 32 ∧ (lockedWith 3).err ≠ 0#4 := by decide
theorem witness_DegWritesDegreeOrAllOnes :
    (operands 1 0).err = 0#4 ∧ (operands 1 0).opa ≠ 0#32 ∧ (operands 0 0).opa = 0#32 := by decide
theorem witness_MulmodWritesProductToRes0 : (operands 3 3).err = 0#4 ∧ (lockedWith 2).err ≠ 0#4 := by decide
theorem witness_PowmodWritesPowerToRes0 : (operands 3 3).err = 0#4 ∧ (1#64 : Exponent) ≠ 0#64 := by decide
theorem witness_DivremWritesQuotientAndRemainder :
    (operands 7 0).opb = 0#32 ∧ (operands 7 2).opb ≠ 0#32 ∧ deg (1#32 : Word) < deg (2#32 : Word) := by decide
theorem witness_InvmodWritesEuclidResult :
    invmod (operands 2 0).opa = some 0x82608EDB#32 ∧ invmod (operands 0 0).opa = none ∧ (operands 2 0).err = 0#4 := by
  decide
theorem witness_InvmodFaultsExactlyOnZero :
    (operands 0 0).opa = 0#32 ∧ (operands 1 0).opa ≠ 0#32 ∧ (operands 1 0).err = 0#4 := by decide
theorem witness_CrcinitStartsAFreshStream : State.reset.err = 0#4 ∧ (lockedWith 1).err ≠ 0#4 := by decide
theorem witness_CrcbDigestsOneByte : State.reset.err = 0#4 ∧ State.reset.crcstate = 0xFFFFFFFF#32 := by decide
theorem witness_CrcloadResumesFromDigest :
    (operands 0x775EE79C 0).err = 0#4 ∧ (operands 0x775EE79C 0).opa = 0x775EE79C#32 ∧ (operands 0 1).opa = 0#32 := by decide
theorem witness_PseudoCommandsLeaveTheirResult :
    State.reset.err = 0#4 ∧ (2#32 : Word) ≠ 0#32 ∧ invmod 1#32 = some 1#32 ∧ invmod 0#32 = none ∧
      Pseudo.toalg ∈ [Pseudo.toalg, .toconv] := by decide
theorem witness_LockoutRefusesAllButClrerr :
    (lockedWith 1).err ≠ 0#4 ∧ (0x20#32 : Word) ≠ 1#32 ∧ (lockedWith 1).readSlot .status = some 1#32 ∧
      (0x08#6 ∈ [0x08#6, 0x0C#6, 0x10#6, 0x14#6]) := by decide
theorem witness_FaultEntryWritesErrOnly :
    ({ operands 7 0 with pending := [commandEvent 0x22#32] } : State).err = 0#4 ∧
      (left (step { operands 7 0 with pending := [commandEvent 0x22#32] })).err = 1#4 ∧
      (left (step { operands 0 0 with pending := [commandEvent 0x23#32] })).err = 2#4 ∧
      (left (step { operands 0 0 with pending := [commandEvent 0x02#32] })).err = 3#4 := by decide
theorem witness_FirstFaultCodeIsKept :
    (lockedWith 2).err ≠ 0#4 ∧ (∀ e ∈ [commandEvent 0x20#32, commandEvent 2#32], ¬ endsLockout e) ∧
      handleAll [commandEvent 0x20#32, commandEvent 2#32] (lockedWith 2) =
        .next { lockedWith 2 with response := answeredError } := by
  refine ⟨by decide, ?_, by rfl⟩
  simp [endsLockout, commandEvent, encode]
theorem witness_StepKeepsErrLegal : (lockedWith 3).errLegal ∧ step (lockedWith 3) = .next (lockedWith 3) := by
  refine ⟨?_, by rfl⟩
  unfold State.errLegal; decide
theorem witness_ReachableStatusReadsAtMostThree : Reachable { State.reset with err := 3#4, response := answeredError } :=
  .step _ _ (.present _ [commandEvent 2#32] .reset) (by rfl)
theorem witness_OnlyNamedStepsWriteEachRegister :
    (left (step { operands 7 2 with pending := [commandEvent 0x22#32] })).res0 ≠ (operands 7 2).res0 ∧
      (left (step { operands 7 2 with pending := [commandEvent 0x22#32] })).res1 ≠ (operands 7 2).res1 ∧
      (left (step { operands 7 2 with pending := [commandEvent 0x32#32] })).crcstate ≠ (operands 7 2).crcstate ∧
      (left (step { operands 7 2 with pending := [commandEvent 0x02#32] })).err ≠ (operands 7 2).err ∧
      (left (step { operands 7 2 with pending := [.bus (.wr 0x08#6 .four 1#32)] })).opa ≠ (operands 7 2).opa ∧
      (left (step { operands 7 2 with pending := [.bus (.wr 0x0C#6 .four 1#32)] })).opb ≠ (operands 7 2).opb ∧
      (left (step { operands 7 2 with pending := [.bus (.wr 0x10#6 .four 1#32)] })).expl ≠ (operands 7 2).expl ∧
      (left (step { operands 7 2 with pending := [.bus (.wr 0x14#6 .four 1#32)] })).exph ≠ (operands 7 2).exph := by
  decide
theorem witness_ResetRestoresEveryRegister : ({ lockedWith 3 with pending := [.reset] } : State).pending = .reset :: [] := by
  rfl
theorem witness_EveryCommandRunsAfterReset : (Instr.nop ≠ .divrem) ∧ (Instr.nop ≠ .invmod) := by decide
theorem witness_ChunkedDigestEqualsWhole : State.reset.err = 0#4 := by rfl
theorem witness_DigestIsOfExactlyTheBytesFed :
    State.reset.err = 0#4 ∧ DigestStream.fresh.value = State.reset.crcstate ∧
      (∀ e ∈ [commandEvent 0x23#32, commandEvent 0x4131#32, commandEvent 1#32, commandEvent 0x6731#32], keepsStream e) ∧
      handleAll (commandEvent (encode .crcinit) ::
          [commandEvent 0x23#32, commandEvent 0x4131#32, commandEvent 1#32, commandEvent 0x6731#32]) State.reset =
        .next { State.reset with crcstate := 0xFE2BE489#32, response := answeredOkay } ∧
      bytesTaken (commandEvent (encode .crcinit) ::
          [commandEvent 0x23#32, commandEvent 0x4131#32, commandEvent 1#32, commandEvent 0x6731#32]) State.reset =
        [0x67#8] :=
  ⟨by rfl, by rfl, by simp [keepsStream, commandEvent, encode], by rfl, by rfl⟩
theorem witness_GeneratorHasFullOrder : 0 < 1 ∧ 1 < 2 ^ 32 - 1 ∧ 4294967294 < 2 ^ 32 - 1 := by decide
theorem witness_DigestDifferenceIsAlgebraic :
    ([0x09#8, 1#8, 2#8, 3#8, 4#8] : List Byte).length = [0x09#8, 5#8, 6#8, 7#8, 8#8].length ∧
      1 + 4 ≤ ([0x09#8, 1#8, 2#8, 3#8, 4#8] : List Byte).length ∧
      ([0x09#8, 1#8, 2#8, 3#8, 4#8] : List Byte).length < 2 ^ 61 ∧
      (∀ i, i < 1 ∨ 1 + 4 ≤ i →
        ([0x09#8, 1#8, 2#8, 3#8, 4#8] : List Byte)[i]? = [0x09#8, 5#8, 6#8, 7#8, 8#8][i]?) := by
  refine ⟨by decide, by decide, by decide, ?_⟩
  intro i hi
  rcases hi with h | h
  · interval_cases i; rfl
  · simp [h]
theorem witness_MulmodRingLaws : deg (0x10000#32 : Word) + deg (0x8000#32 : Word) < 32 := by decide
theorem witness_LoopsEndWithinTheirBounds :
    deg (7#32 : Word) + 1 ≤ 3 ∧ deg (0#64 : Exponent) + 1 ≤ 0 ∧ deg (0xFFFFFFFF#32 : Word) + 1 ≤ 32 := by decide
theorem witness_DivremIsPolynomialDivision :
    (2#3 : BitVec 3) ≠ 0#3 ∧
      (7#3 : BitVec 3).setWidth (2 * 3) =
        clmul ((3#3 : BitVec 3).setWidth (2 * 3)) ((2#3 : BitVec 3).setWidth (2 * 3)) ^^^ (1#3 : BitVec 3).setWidth (2 * 3) ∧
      deg (1#3 : BitVec 3) < deg (2#3 : BitVec 3) ∧ deg (2#3 : BitVec 3) ≤ deg (7#3 : BitVec 3) := by decide
theorem witness_PowmodExponentLaws : 1000 + 234567 < 2 ^ 64 ∧ 1000 * 234567 < 2 ^ 64 := by decide
theorem witness_PowmodFieldLaws : (2#32 : Word) ≠ 0#32 := by decide
theorem witness_EuclidCoefficientsCarryThePair : (euclidStart 1#32).Y ≠ 0#32 := by decide
theorem witness_InvmodIsTheFieldInverse :
    (2#32 : Word) ≠ 0#32 ∧ invmod 2#32 = some 0x82608EDB#32 ∧ invmod 3#32 = some 0xFC40F492#32 ∧ mulmod 0#32 5#32 = 0#32 := by
  decide
theorem witness_PatchBytesAreReversedWordLowFirst : 0 < 4 ∧ 3 < 4 ∧ State.reset.err = 0#4 := by decide
theorem witness_ForgeIssuesTheListedCommands :
    (10 - 6) * 8 < 2 ^ 64 ∧ State.reset.err = 0#4 ∧ 6 + 4 ≤ (List.replicate 10 0#8).length ∧
      invmod (powmod 2#32 (forgeExponent 10 6)) = some 0xCBF1ACDA#32 := by decide +kernel
theorem witness_ForgeReachesEveryTarget :
    State.reset.err = 0#4 ∧ 6 + 4 ≤ (List.replicate 10 0#8).length := by decide
theorem witness_ForgeAtTheEdges :
    (List.replicate 10 0#8).length < 7 + 4 ∧ State.reset.err = 0#4 ∧ 6 + 4 ≤ (List.replicate 10 0#8).length := by decide

end Sys2Proof.Tests
end

-- ==== the state family: reset ====
section
/-! What the reset event does, said once, and the settled statement about it. -/

namespace Sys2Proof.Machine

/-- What the host has yet to present is none of the block's registers (R20, log 1). -/
theorem sameBlock_setPending (s : State) (es : List Event) : sameBlock s (s.setPending es) := by
  simp [sameBlock]

/-- A step on a reset event forgets the state it began from: only the host's later events are left of it. -/
theorem step_reset {s : State} {es : List Event} (h : s.pending = .reset :: es) :
    step s = .next (State.reset.setPending es) := by
  rw [step_event h, handle, resetBlock, State.setPending_pending]

/-- Settles O38: the eight values are the fields of `State.reset`, and by `step_reset` a reset event leaves exactly
that block, whatever state it began from. -/
theorem resetRestoresEveryRegister : Obligations.ResetRestoresEveryRegister := by
  unfold Obligations.ResetRestoresEveryRegister
  constructor
  · simp
  · intro s es h
    exact ⟨State.reset.setPending es, step_reset h, sameBlock_setPending _ es, State.setPending_pending _ es⟩

end Sys2Proof.Machine
end

-- ==== the memory family: the bus ====
section
/-! The bus transactions, one lemma per way a transaction can end, and the settled statements about them. -/

namespace Sys2Proof.Machine

/-! ## The step on a transaction, and which accesses are whole words -/

/-- A transaction presented next is what the step performs, the host's later events still pending. -/
theorem step_bus (s : State) (t : Transaction) (es : List Event) :
    step { s with pending := .bus t :: es } = transact t (s.setPending es) :=
  step_event (s := { s with pending := .bus t :: es }) rfl

/-- R43's two conditions by numbers. -/
theorem wholeWord_iff (off : BitVec 6) (size : AccessSize) :
    wholeWord off size = true ↔ size = .four ∧ off.toNat % 4 = 0 := by
  simp [wholeWord, ← BitVec.toNat_inj]

theorem wholeWord_eq_false {off : BitVec 6} {size : AccessSize} (h : size ≠ .four ∨ off.toNat % 4 ≠ 0) :
    wholeWord off size = false := by
  rw [← Bool.not_eq_true, wholeWord_iff]
  exact not_and_or.2 h

/-- From `0x28` on no slot has a name (R41). -/
theorem slotAt_reserved {off : BitVec 6} (h : 0x28 ≤ off.toNat) : slotAt off = none := by
  cases hr : slotAt off with
  | none => rfl
  | some r =>
    rw [slotOffset_of_slotAt off r hr] at h
    revert h
    cases r <;> decide

/-! ## How a read ends -/

/-- A read refused for its size or alignment, or where no register can be read, is an access error. -/
theorem readTransaction_refused {off : BitVec 6} {size : AccessSize} {s : State}
    (h : wholeWord off size = false ∨ (slotAt off).bind s.readSlot = none) :
    readTransaction off size s = .next (s.setResponse (readResponse .error 0#32)) :=
  (readTransaction_next off size s _).2 (.inl ⟨h, rfl⟩)

/-- A word read of a readable slot answers what the slot holds. -/
theorem handle_read_slot {s : State} {r : Slot} {v : Word} (h : s.readSlot r = some v) :
    handle (.bus (.rd (slotOffset r) .four)) s = .next (s.setResponse (readResponse .okay v)) :=
  (readTransaction_next _ _ s _).2
    (.inr ⟨wholeWord_slotOffset r, v, by rw [slotAt_slotOffset, Option.bind_some, h], rfl⟩)

/-- CMD and the reserved offsets hold nothing that can be read (R44). -/
theorem readSlot_forbidden {off : BitVec 6} (s : State) (h : off.toNat = 0x00 ∨ 0x28 ≤ off.toNat) :
    (slotAt off).bind s.readSlot = none := by
  rcases h with h | h
  · obtain rfl : off = slotOffset .cmd := BitVec.eq_of_toNat_eq h
    rw [slotAt_slotOffset, Option.bind_some, State.readSlot]
  · rw [slotAt_reserved h, Option.bind_none]

/-- The answer to a transaction is not read back by any slot (log 2). -/
@[simp] theorem State.setResponse_readSlot (s : State) (a : Option Response) (r : Slot) :
    (s.setResponse a).readSlot r = s.readSlot r := by cases r <;> rfl

/-! ## How a write ends -/

/-- A write refused for its size or alignment, or to a reserved offset, is an access error. -/
theorem writeTransaction_refused {off : BitVec 6} {size : AccessSize} (d : Word) {s : State}
    (h : wholeWord off size = false ∨ slotAt off = none) :
    writeTransaction off size d s = .next (s.setResponse (writeResponse .error)) :=
  (writeTransaction_next off size d s _).2 (.inl ⟨h, rfl⟩)

/-- A word write to a named slot is the effect of that slot. -/
theorem writeTransaction_slot (r : Slot) (d : Word) (s : State) :
    writeTransaction (slotOffset r) .four d s = writeSlot d s r := by
  simp [writeTransaction, wholeWord_slotOffset, slotAt_slotOffset]

/-- The word write to a slot, presented next, as a step. -/
theorem step_write_slot (s : State) (es : List Event) (r : Slot) (d : Word) :
    step { s with pending := .bus (.wr (slotOffset r) .four d) :: es } = writeSlot d (s.setPending es) r := by
  rw [step_bus, transact, writeTransaction_slot]

/-- The read-only slots and the reserved offsets turn every write away (R44). -/
theorem writeTransaction_forbidden {off : BitVec 6} (d : Word) (s : State)
    (h : off.toNat = 0x04 ∨ off.toNat = 0x18 ∨ off.toNat = 0x1C ∨ off.toNat = 0x20 ∨ off.toNat = 0x24 ∨
      0x28 ≤ off.toNat) :
    writeTransaction off .four d s = .next (s.setResponse (writeResponse .error)) := by
  have readOnly (r : Slot) (hoff : off.toNat = (slotOffset r).toNat) (hr : writeSlot d s r = turnAway s) :
      writeTransaction off .four d s = .next (s.setResponse (writeResponse .error)) := by
    rw [BitVec.eq_of_toNat_eq hoff, writeTransaction_slot, hr, turnAway]
  rcases h with h | h | h | h | h | h
  · exact readOnly .status h rfl
  · exact readOnly .res0 h rfl
  · exact readOnly .res1 h rfl
  · exact readOnly .crcstate h rfl
  · exact readOnly .crcdigest h rfl
  · exact writeTransaction_refused d (.inr (slotAt_reserved h))

/-! ## What an operand write leaves unchanged in the window -/

theorem State.setOpa_readSlot {q : Slot} (h : q ≠ .opa) (s : State) (v : Word) :
    (s.setOpa v).readSlot q = s.readSlot q := by
  cases q with
  | opa => exact absurd rfl h
  | _ => rfl

theorem State.setOpb_readSlot {q : Slot} (h : q ≠ .opb) (s : State) (v : Word) :
    (s.setOpb v).readSlot q = s.readSlot q := by
  cases q with
  | opb => exact absurd rfl h
  | _ => rfl

theorem State.setExpl_readSlot {q : Slot} (h : q ≠ .expl) (s : State) (v : Word) :
    (s.setExpl v).readSlot q = s.readSlot q := by
  cases q with
  | expl => exact absurd rfl h
  | _ => rfl

theorem State.setExph_readSlot {q : Slot} (h : q ≠ .exph) (s : State) (v : Word) :
    (s.setExph v).readSlot q = s.readSlot q := by
  cases q with
  | exph => exact absurd rfl h
  | _ => rfl

/-- A write to an operand slot leaves every other slot as it reads. -/
theorem readSlot_after_operand_write {r q : Slot} {d : Word} {s t : State}
    (hr : r ∈ [Slot.opa, .opb, .expl, .exph]) (ht : writeSlot d s r = .next t) (hq : q ≠ r) :
    t.readSlot q = s.readSlot q := by
  simp only [List.mem_cons, List.not_mem_nil, or_false] at hr
  rcases hr with rfl | rfl | rfl | rfl
  · rw [(complete_next _ t).1 ht, State.setResponse_readSlot, State.setOpa_readSlot hq]
  · rw [(complete_next _ t).1 ht, State.setResponse_readSlot, State.setOpb_readSlot hq]
  · rw [(complete_next _ t).1 ht, State.setResponse_readSlot, State.setExpl_readSlot hq]
  · rw [(complete_next _ t).1 ht, State.setResponse_readSlot, State.setExph_readSlot hq]

/-- A byte of the window is seen through the slot that holds it, and through nothing else of the state. -/
theorem windowByte_congr {s t : State} {a : BitVec 6}
    (h : ∀ q, slotAt (a &&& 0x3C#6) = some q → t.readSlot q = s.readSlot q) : t.windowByte a = s.windowByte a := by
  unfold State.windowByte
  cases hq : slotAt (a &&& 0x3C#6) with
  | none => rfl
  | some q => rw [Option.bind_some, Option.bind_some, h q hq]

/-- A byte held by a slot lies in the slot's word. -/
theorem div_four_of_slotAt {a : BitVec 6} {q : Slot} (h : slotAt (a &&& 0x3C#6) = some q) :
    a.toNat / 4 = (slotOffset q).toNat / 4 := by
  have hmask : ∀ b : BitVec 6, (b &&& 0x3C#6).toNat / 4 = b.toNat / 4 := by decide
  rw [← slotOffset_of_slotAt _ q h, hmask]

/-- R46's frame in the byte view: a write to an operand slot leaves the bytes outside its word. -/
theorem windowByte_after_operand_write {r : Slot} {d : Word} {s t : State} {a : BitVec 6}
    (hr : r ∈ [Slot.opa, .opb, .expl, .exph]) (ht : writeSlot d s r = .next t)
    (ha : a.toNat / 4 ≠ (slotOffset r).toNat / 4) : t.windowByte a = s.windowByte a := by
  refine windowByte_congr fun q hq => readSlot_after_operand_write hr ht ?_
  rintro rfl
  exact ha (div_four_of_slotAt hq)

/-! ## How a command step ends -/

/-- The three ways a command step from `s` ends in `t`: done, with ERR clear; refused in lockout (R135); a fault out of
lockout (R137). -/
inductive CommandAnswer (s t : State) : Prop where
  | done (hresp : t.response = writeResponse .okay) (herr : t.err = 0#4)
  | refused (hlock : s.err ≠ 0#4) (ht : t = s.setResponse (writeResponse .error))
  | fault (hopen : s.err = 0#4) (c : FaultCode)
      (ht : t = (s.setErr (faultNumber c)).setResponse (writeResponse .error))

/-- The result is a next state, and one a command step from `s` can end in. -/
def AnswersCommand (s : State) (o : Result) : Prop := ∃ t, o = .next t ∧ CommandAnswer s t

theorem complete_answers (s : State) {u : State} (h : u.err = 0#4) : AnswersCommand s (complete u) :=
  ⟨_, rfl, .done rfl h⟩

theorem raiseFault_answers {s : State} (h : s.err = 0#4) (c : FaultCode) : AnswersCommand s (raiseFault c s) :=
  ⟨_, rfl, .fault h c rfl⟩

/-- Only the open case of a command that tests lockout is the command's own. -/
theorem unlessLocked_answers {s : State} {body : State → Result} (h : s.err = 0#4 → AnswersCommand s (body s)) :
    AnswersCommand s (unlessLocked s body) := by
  by_cases he : s.err = 0#4
  · rw [unlessLocked_open he]
    exact h he
  · rw [unlessLocked_shut he]
    exact ⟨_, rfl, .refused he rfl⟩

/-- A command that, when it is not refused, completes with the effect `after` and leaves ERR alone. -/
theorem completing_answers (s : State) (after : State → State) (h : (after s).err = s.err) :
    AnswersCommand s (unlessLocked s fun s => complete (after s)) :=
  unlessLocked_answers (body := fun s => complete (after s)) fun he => complete_answers s (h.trans he)

/-- DIVREM completes but for the divisor 0. -/
theorem execDivrem_answers (s : State) : AnswersCommand s (execDivrem s) := by
  refine unlessLocked_answers fun he => ?_
  by_cases hy : s.opb = 0#32
  · rw [if_pos hy]
    exact raiseFault_answers he .div0
  · rw [if_neg hy]
    exact complete_answers s he

/-- INVMOD completes but where the loop finds no inverse. -/
theorem execInvmod_answers (s : State) : AnswersCommand s (execInvmod s) := by
  refine unlessLocked_answers fun he => ?_
  split
  · exact raiseFault_answers he .noinv
  · exact complete_answers s he

/-- Every command leaves a next state of one of the three kinds. -/
theorem exec_answers (i : Instr) (s : State) : AnswersCommand s (exec i s) := by
  cases i with
  | nop => exact completing_answers s id rfl
  | clrerr => exact complete_answers s rfl
  | bitrev => exact completing_answers s (fun s => s.setRes0 (rev32 s.opa)) rfl
  | deg => exact completing_answers s (fun s => s.setRes0 (degWord s.opa)) rfl
  | mulmod => exact completing_answers s (fun s => s.setRes0 (mulmod s.opa s.opb)) rfl
  | powmod => exact completing_answers s (fun s => s.setRes0 (powmod s.opa s.exponent)) rfl
  | divrem => exact execDivrem_answers s
  | invmod => exact execInvmod_answers s
  | crcinit => exact completing_answers s (fun s => s.setCrcstate Config.crcInit) rfl
  | crcb imm8 => exact completing_answers s (fun s => s.setCrcstate (crcStep s.crcstate imm8)) rfl
  | crcload => exact completing_answers s (fun s => s.setCrcstate (s.opa ^^^ Config.crcXorOut)) rfl

/-- So does every word written to CMD, legal or not. -/
theorem commandWrite_answers (w : Word) (s : State) : AnswersCommand s (commandWrite w s) := by
  cases hw : decode w with
  | ok i =>
    rw [commandWrite_decoded hw]
    exact exec_answers i s
  | error r =>
    rw [commandWrite_illegal hw]
    exact unlessLocked_answers fun he => raiseFault_answers he .illcmd

/-- Whichever way a command step ends, it answers OKAY, or ERROR with no register but ERR changed. -/
theorem CommandAnswer.okay_or_error {s t : State} (h : CommandAnswer s t) :
    t.response = writeResponse .okay ∨
      (t.response = writeResponse .error ∧ sameBlock { s with err := t.err } t) := by
  cases h with
  | done hresp => exact .inl hresp
  | refused _ ht =>
    subst ht
    exact .inr ⟨rfl, by simp [sameBlock]⟩
  | fault _ c ht =>
    subst ht
    exact .inr ⟨rfl, by simp [sameBlock]⟩

/-! ## The statements -/

/-- Settles O14: the four operand writes by `step_write_slot`, the window's other bytes by
`windowByte_after_operand_write`, the write of CMD by `commandWrite_answers`. -/
theorem acceptedWritesWriteTheirRegister : Obligations.AcceptedWritesWriteTheirRegister := by
  unfold Obligations.AcceptedWritesWriteTheirRegister
  intro s es d
  refine ⟨step_write_slot s es .opa d, step_write_slot s es .opb d, step_write_slot s es .expl d,
    step_write_slot s es .exph d, ?frame, ?command⟩
  case frame =>
    intro off a t hoff ht ha
    obtain ⟨r, hr, rfl⟩ : ∃ r ∈ [Slot.opa, .opb, .expl, .exph], slotOffset r = off :=
      List.mem_map.1 (show off ∈ [Slot.opa, .opb, .expl, .exph].map slotOffset from hoff)
    rw [step_write_slot] at ht
    rw [windowByte_after_operand_write hr ht ha]
    exact windowByte_congr fun q _ => State.setPending_readSlot s es q
  case command =>
    obtain ⟨t, ht, hanswer⟩ := commandWrite_answers d (s.setPending es)
    exact ⟨t, (step_write_slot s es .cmd d).trans ht, ht, hanswer.okay_or_error⟩

/-- Settles O11: R43's test comes before the slot is looked at, so the offset plays no part. -/
theorem narrowOrUnalignedAccessHasNoEffect : Obligations.NarrowOrUnalignedAccessHasNoEffect := by
  unfold Obligations.NarrowOrUnalignedAccessHasNoEffect
  intro s es off size d h
  have hw := wholeWord_eq_false h
  rw [step_bus, step_bus]
  exact ⟨readTransaction_refused (.inl hw), writeTransaction_refused d (.inl hw)⟩

/-- Settles O12: at an aligned offset the slot's rights alone decide (R44). -/
theorem forbiddenDirectionHasNoEffect : Obligations.ForbiddenDirectionHasNoEffect := by
  unfold Obligations.ForbiddenDirectionHasNoEffect
  intro s es off d _
  rw [step_bus, step_bus]
  exact ⟨fun h => readTransaction_refused (.inr (readSlot_forbidden _ h)), writeTransaction_forbidden d _⟩

/-- Settles O13: each pair of the list is a slot's offset and what the slot reads as; the first answer changes no slot,
so the second read finds the same value. -/
theorem acceptedReadsReturnTheirRegister : Obligations.AcceptedReadsReturnTheirRegister := by
  unfold Obligations.AcceptedReadsReturnTheirRegister
  intro s es ⟨off, v⟩ hp
  obtain ⟨r, rfl, hv⟩ : ∃ r, slotOffset r = off ∧ s.readSlot r = some v := by
    simp only [List.mem_cons, List.not_mem_nil, or_false, Prod.mk.injEq] at hp
    rcases hp with ⟨rfl, rfl⟩ | ⟨rfl, rfl⟩ | ⟨rfl, rfl⟩ | ⟨rfl, rfl⟩ | ⟨rfl, rfl⟩ | ⟨rfl, rfl⟩ | ⟨rfl, rfl⟩ |
      ⟨rfl, rfl⟩ | ⟨rfl, rfl⟩
    exacts [⟨.status, rfl, rfl⟩, ⟨.opa, rfl, rfl⟩, ⟨.opb, rfl, rfl⟩, ⟨.expl, rfl, rfl⟩, ⟨.exph, rfl, rfl⟩,
      ⟨.res0, rfl, rfl⟩, ⟨.res1, rfl, rfl⟩, ⟨.crcstate, rfl, rfl⟩, ⟨.crcdigest, rfl, rfl⟩]
  constructor
  · rw [step_bus]
    exact handle_read_slot ((State.setPending_readSlot s es r).trans hv)
  · have hfirst := handle_read_slot hv
    have hsecond := handle_read_slot ((State.setResponse_readSlot s (readResponse .okay v) r).trans hv)
    rw [handleAll_cons_next hfirst, handleAll_cons_next hsecond, handleAll_nil]
    rfl

end Sys2Proof.Machine
end

-- ==== the encoding family: the decoder and the legal words ====
section
/-! The fields of a command word, what the decoder reads from them, and that the words it reads are R64's legal words
and the encodings of the instructions. -/

namespace Sys2Proof

/-! ## The three fields of a word (R60) -/

theorem opcodeField_toNat (w : Word) : (opcodeField w).toNat = w.toNat % 256 := by simp [opcodeField]

theorem immField_toNat (w : Word) : (immField w).toNat = w.toNat / 256 % 256 := by
  simp [immField, Nat.shiftRight_eq_div_pow]

theorem zeroField_toNat (w : Word) : (zeroField w).toNat = w.toNat / 65536 := by
  have hw := w.isLt
  simp only [zeroField, BitVec.extractLsb'_toNat, Nat.shiftRight_eq_div_pow]
  omega

/-- A word is its three fields, put together again. -/
theorem fields_append (w : Word) : zeroField w ++ immField w ++ opcodeField w = w := by
  unfold zeroField immField opcodeField
  rw [BitVec.extractLsb'_append_extractLsb'_eq_extractLsb' (by rfl),
    BitVec.extractLsb'_append_extractLsb'_eq_extractLsb' (by rfl)]
  exact BitVec.extractLsb'_eq_self

/-! ## What the decoder reads -/

/-- The format Z opcodes of the decoder are the ones R64 lists. -/
theorem formatZ_isSome_iff : ∀ op : Byte, (∃ i, formatZ op = some i) ↔ op.toNat ∈ formatZOpcodes := by
  simp only [← Option.isSome_iff_exists]
  decide

/-- The decoder by fields (R63): the high half is clear, and the word is a CRCB or a format Z command whose immediate is
clear. -/
theorem decode_eq_ok_iff (w : Word) (i : Instr) :
    decode w = .ok i ↔ zeroField w = 0#16 ∧
      ((opcodeField w = 0x31#8 ∧ i = .crcb (immField w)) ∨ (immField w = 0#8 ∧ formatZ (opcodeField w) = some i)) := by
  unfold decode
  by_cases hz : zeroField w = 0#16
  case neg => simp [hz]
  by_cases hop : opcodeField w = 0x31#8
  · have hnone : formatZ 0x31#8 = none := rfl
    simp [hz, hop, hnone, eq_comm]
  · cases hf : formatZ (opcodeField w) with
    | none => simp [hz, hop]
    | some j => by_cases him : immField w = 0#8 <;> simp [hz, hop, him]

/-- R64 by fields. -/
theorem legalWord_iff (w : Word) :
    legalWord w = true ↔ zeroField w = 0#16 ∧
      (opcodeField w = 0x31#8 ∨ (immField w = 0#8 ∧ (opcodeField w).toNat ∈ formatZOpcodes)) := by
  simp [legalWord, highHalfClear, opcodeListed, ← BitVec.toNat_inj, zeroField_toNat, opcodeField_toNat,
    immField_toNat]

/-- The decoder accepts exactly the legal words. -/
theorem decode_ok_iff_legalWord (w : Word) : (∃ i, decode w = .ok i) ↔ legalWord w = true := by
  simp only [decode_eq_ok_iff, legalWord_iff, exists_and_left, exists_or, exists_eq, and_true, formatZ_isSome_iff]

/-- A word that is not legal is refused under some name. -/
theorem decode_error_of_not_legalWord {w : Word} (h : legalWord w = false) : ∃ r, decode w = .error r := by
  cases hd : decode w with
  | error r => exact ⟨r, rfl⟩
  | ok i => exact absurd ((decode_ok_iff_legalWord w).1 ⟨i, hd⟩) (by simp [h])

/-! ## Decoding and encoding -/

theorem decode_encode (i : Instr) : decode (encode i) = .ok i := by
  cases i with
  | crcb imm8 => revert imm8; decide
  | _ => rfl

theorem encode_crcb : ∀ imm8 : Byte, encode (.crcb imm8) = 0#16 ++ imm8 ++ 0x31#8 := by decide

theorem encode_of_formatZ : ∀ op : Byte, ∀ i ∈ formatZ op, encode i = 0#16 ++ 0#8 ++ op := by decide

/-- A word that decodes is the encoding of what it decodes to. -/
theorem encode_of_decode {w : Word} {i : Instr} (h : decode w = .ok i) : encode i = w := by
  obtain ⟨hz, ⟨hop, rfl⟩ | ⟨him, hf⟩⟩ := (decode_eq_ok_iff w i).1 h
  · rw [encode_crcb, ← hz, ← hop, fields_append]
  · rw [encode_of_formatZ _ i hf, ← hz, ← him, fields_append]

theorem encode_injective : Function.Injective encode := fun i j h =>
  Except.ok.inj <| by rw [← decode_encode i, h, decode_encode j]

/-! ## The legal words, listed -/

/-- The ten commands of format Z, in the order of R63. -/
def formatZInstrs : List Instr :=
  [.nop, .clrerr, .bitrev, .deg, .mulmod, .powmod, .divrem, .invmod, .crcinit, .crcload]

/-- Every instruction: the ten of format Z, and CRCB with each of the 256 bytes. -/
def allInstrs : List Instr := formatZInstrs ++ (List.finRange 256).map fun b => .crcb (BitVec.ofFin b)

theorem mem_allInstrs (i : Instr) : i ∈ allInstrs := by
  cases i with
  | crcb imm8 => exact List.mem_append_right _ (List.mem_map.2 ⟨imm8.toFin, List.mem_finRange _, rfl⟩)
  | _ => exact List.mem_append_left _ (by decide)

theorem allInstrs_nodup : allInstrs.Nodup := by
  refine List.Nodup.append (by decide) ((List.nodup_finRange 256).map ?inj) ?disjoint
  case inj =>
    intro a b h
    injection h with h
    exact congrArg BitVec.toFin h
  case disjoint => simp [List.Disjoint, formatZInstrs]

/-- R64's count: 10 + 256. -/
theorem allInstrs_length : allInstrs.length = 266 := by simp [allInstrs, formatZInstrs]

/-- The legal words are the encodings of the instructions. -/
theorem mem_map_encode_iff_legalWord (w : Word) : w ∈ allInstrs.map encode ↔ legalWord w = true := by
  rw [← decode_ok_iff_legalWord, List.mem_map]
  constructor
  · rintro ⟨i, -, rfl⟩
    exact ⟨i, decode_encode i⟩
  · rintro ⟨i, hi⟩
    exact ⟨i, mem_allInstrs i, encode_of_decode hi⟩

end Sys2Proof
end

-- ==== the encoding family: the command step ====
section
/-! The command step in lockout and on an illegal word, and the settled statements about it. -/

namespace Sys2Proof.Machine

/-- A command word presented next is what the step takes, the host's later events still pending. -/
theorem step_commandEvent {s : State} {w : Word} {es : List Event} (h : s.pending = commandEvent w :: es) :
    step s = commandWrite w (s.setPending es) := by
  rw [step_event h, handle_commandEvent]

/-- R133: an illegal word outside lockout raises ILLCMD, number 3. -/
theorem commandWrite_illegal_open {w : Word} {s : State} (hw : legalWord w = false) (h : s.err = 0#4) :
    commandWrite w s = .next ((s.setErr 3#4).setResponse (writeResponse .error)) := by
  obtain ⟨r, hr⟩ := decode_error_of_not_legalWord hw
  rw [commandWrite_illegal hr]
  exact (illegalCommand_next s _).2 (.inr ⟨h, rfl⟩)

/-- R119: CLRERR's word is accepted in every state. -/
theorem commandWrite_clrerr (s : State) :
    commandWrite 0x00000001#32 s = .next ((s.setErr 0#4).setResponse (writeResponse .okay)) :=
  commandWrite_decoded (decode_encode .clrerr) s

/-- Every command but CLRERR tests lockout before anything else (R136, log 3). -/
theorem exec_tests_lockout {i : Instr} (hi : i ≠ .clrerr) : ∃ body, ∀ s, exec i s = unlessLocked s body := by
  cases i with
  | clrerr => exact absurd rfl hi
  | _ => exact ⟨_, fun _ => rfl⟩

/-- R135: in lockout every command but CLRERR is turned away. -/
theorem exec_locked {i : Instr} {s : State} (hi : i ≠ .clrerr) (h : s.err ≠ 0#4) : exec i s = turnAway s := by
  obtain ⟨body, hbody⟩ := exec_tests_lockout hi
  rw [hbody, unlessLocked_shut h]

/-- R135: in lockout every word but CLRERR's is turned away, legal or not. -/
theorem commandWrite_locked {w : Word} {s : State} (hw : w ≠ 0x00000001#32) (h : s.err ≠ 0#4) :
    commandWrite w s = .next (s.setResponse (writeResponse .error)) := by
  cases hd : decode w with
  | ok i =>
    have hi : i ≠ .clrerr := by
      rintro rfl
      exact hw (encode_of_decode hd).symm
    rw [commandWrite_decoded hd]
    exact exec_locked hi h
  | error r =>
    rw [commandWrite_illegal hd]
    exact unlessLocked_shut h _

/-- Out of lockout a command step answers OKAY with ERR still clear, or enters a fault and writes nothing else. -/
theorem CommandAnswer.okay_or_fault {s t : State} (h : CommandAnswer s t) (hopen : s.err = 0#4) :
    (t.response = writeResponse .okay ∧ t.err = 0#4) ∨
      ∃ code, code ≠ 0#4 ∧ t = (s.setErr code).setResponse (writeResponse .error) := by
  cases h with
  | done hresp herr => exact .inl ⟨hresp, herr⟩
  | refused hlock => exact absurd hopen hlock
  | fault _ c ht => exact .inr ⟨faultNumber c, (faultNumber_legal c).2, ht⟩

/-! ## The statements -/

/-- Settles O2: the legal words are the encodings of the 266 instructions, and ILLCMD is `commandWrite_illegal_open`. -/
theorem exactlyTheLegalWordsExecute : Obligations.ExactlyTheLegalWordsExecute := by
  unfold Obligations.ExactlyTheLegalWordsExecute
  refine ⟨decode_ok_iff_legalWord, ⟨allInstrs.map encode, ?nodup, ?length, mem_map_encode_iff_legalWord⟩, ?illegal,
    by decide, by decide⟩
  case nodup => exact allInstrs_nodup.map encode_injective
  case length => rw [List.length_map, allInstrs_length]
  case illegal =>
    intro s w es hp hopen hw
    rw [step_commandEvent hp]
    exact commandWrite_illegal_open hw hopen

/-- Settles O7: R69's branches one by one; the last by `exec_answers`. -/
theorem commandStepBranches : Obligations.CommandStepBranches := by
  unfold Obligations.CommandStepBranches
  intro s w es hp
  rw [step_commandEvent hp]
  refine ⟨?clrerr, fun hlock hw => commandWrite_locked hw hlock,
    fun hopen hw => commandWrite_illegal_open hw hopen, ?legal⟩
  case clrerr =>
    rintro - rfl
    exact commandWrite_clrerr _
  case legal =>
    intro hopen hw
    obtain ⟨i, hi⟩ := (decode_ok_iff_legalWord w).2 hw
    obtain ⟨t, ht, hanswer⟩ := exec_answers i (s.setPending es)
    exact ⟨i, t, hi, ht, (commandWrite_decoded hi _).trans ht, hanswer.okay_or_fault hopen⟩

end Sys2Proof.Machine
end

-- ==== the crc_digest family: CRCINIT and CRCB ====
section
/-! What a command that always completes does when the host writes its word to CMD and reads a register back, and the
settled statements about CRCINIT and CRCB. -/

namespace Sys2Proof.Machine

/-! ## Commands in lockout, and completing commands on the bus -/

/-- R135 in the form the statements use. -/
theorem refusedInLockout_of_ne_clrerr {i : Instr} (hi : i ≠ .clrerr) : refusedInLockout i :=
  fun _ hlock => exec_locked hi hlock

/-- A legal word written to CMD is the execution of its instruction. -/
theorem handle_encode (i : Instr) (s : State) : handle (commandEvent (encode i)) s = exec i s := by
  rw [handle_commandEvent, commandWrite_decoded (decode_encode i)]

section
variable {i : Instr} {after : State → State} {s : State}

/-- A command that tests lockout and then completes, completes in every state out of lockout. -/
theorem completes_of_exec_eq (hexec : ∀ s, exec i s = unlessLocked s fun s => complete (after s)) :
    completes i after :=
  fun s hopen _ => (hexec s).trans (unlessLocked_open hopen _)

/-- A completing command written to CMD has its effect and is answered OKAY. -/
theorem handle_of_completes (hi : completes i after) (hopen : s.err = 0#4) :
    handle (commandEvent (encode i)) s = .next ((after s).setResponse (writeResponse .okay)) :=
  (handle_encode i s).trans (hi s hopen trivial)

/-- A read that follows a completing command answers what the command left in the slot (R52). -/
theorem handleAll_command_then_read {r : Slot} {v : Word} (hi : completes i after) (hopen : s.err = 0#4)
    (hv : (after s).readSlot r = some v) :
    handleAll [commandEvent (encode i), .bus (.rd (slotOffset r) .four)] s =
      .next ((after s).setResponse (readResponse .okay v)) := by
  have hread : ((after s).setResponse (writeResponse .okay)).readSlot r = some v := by
    rw [State.setResponse_readSlot, hv]
  rw [handleAll_cons_next (handle_of_completes hi hopen), handleAll_cons_next (handle_read_slot hread), handleAll_nil]
  rfl

end

/-! ## What the two commands do to the state -/

theorem completes_crcinit : completes .crcinit fun s => s.setCrcstate Config.crcInit :=
  completes_of_exec_eq fun _ => rfl

theorem completes_crcb (b : Byte) : completes (.crcb b) fun s => s.setCrcstate (crcStep s.crcstate b) :=
  completes_of_exec_eq fun _ => rfl

/-- CRCDIGEST shows the register inverted (R85). -/
theorem State.setCrcstate_readSlot_crcdigest (s : State) (v : Word) :
    (s.setCrcstate v).readSlot .crcdigest = some (v ^^^ Config.crcXorOut) := rfl

/-- A second CRCINIT finds the register already at its initial value. -/
theorem handleAll_crcinit_twice {s : State} (hopen : s.err = 0#4) :
    handleAll [commandEvent (encode .crcinit), commandEvent (encode .crcinit)] s =
      handleAll [commandEvent (encode .crcinit)] s := by
  have hfirst := handle_of_completes completes_crcinit hopen
  have hsecond := handle_of_completes completes_crcinit
    (s := (s.setCrcstate Config.crcInit).setResponse (writeResponse .okay)) hopen
  rw [handleAll_cons_next hfirst, handleAll_cons_next hsecond, handleAll_cons_next hfirst]
  rfl

/-- The immediate is the byte times 256, below bit 16 (R62). -/
theorem encode_crcb_eq_or (b : Byte) : encode (.crcb b) = BitVec.ofNat 32 (b.toNat * 256) ||| 0x00000031#32 := by
  have himm : b.setWidth 32 <<< 8 = BitVec.ofNat 32 (b.toNat * 256) := by
    apply BitVec.eq_of_toNat_eq
    simp [Nat.shiftLeft_eq]
  rw [encode, himm]

/-! ## The statements -/

/-- Settles O27: CRCINIT completes with the register at `Config.crcInit`, whose view in CRCDIGEST is 0 (R85). -/
theorem crcinitStartsAFreshStream : Obligations.CrcinitStartsAFreshStream := by
  unfold Obligations.CrcinitStartsAFreshStream
  refine ⟨rfl, completes_crcinit, refusedInLockout_of_ne_clrerr nofun, fun s hopen => ⟨?twice, ?digest⟩⟩
  case twice => exact handleAll_crcinit_twice hopen
  case digest =>
    have hinverted : Config.crcInit ^^^ Config.crcXorOut = 0#32 := by decide
    refine handleAll_command_then_read (r := .crcdigest) completes_crcinit hopen ?_
    rw [State.setCrcstate_readSlot_crcdigest, hinverted]

/-- Settles O28: CRCB completes with one `crcStep`; the example is that step on the byte 0x67 from the initial
register, read back inverted through CRCDIGEST. -/
theorem crcbDigestsOneByte : Obligations.CrcbDigestsOneByte := by
  unfold Obligations.CrcbDigestsOneByte
  refine ⟨encode_crcb_eq_or, fun b => ⟨completes_crcb b, refusedInLockout_of_ne_clrerr nofun⟩, by decide, by decide,
    fun s hopen hinit => ?_⟩
  have hstep : crcStep s.crcstate 0x67#8 = 0xFE2BE489#32 := by rw [hinit]; decide
  have hinverted : 0xFE2BE489#32 ^^^ Config.crcXorOut = 0x01D41B76#32 := by decide
  have hread : (s.setCrcstate (crcStep s.crcstate 0x67#8)).readSlot .crcdigest = some 0x01D41B76#32 := by
    rw [State.setCrcstate_readSlot_crcdigest, hstep, hinverted]
  have hrun := handleAll_command_then_read (completes_crcb 0x67#8) hopen hread
  rw [hstep] at hrun
  exact hrun

end Sys2Proof.Machine
end

-- ==== the bitrev family: bit reversal and BITREV ====
section
/-! Where bit reversal sends each bit, and the settled statement about BITREV. -/

namespace Sys2Proof.Machine

/-! ## Bit reversal at every width (R90) -/

section
variable {w : Nat} (v : BitVec w)

/-- The loop of `revBits` after bits 0 to `n - 1` of `v` are placed. -/
def revBitsBelow (n : Nat) : BitVec w :=
  (List.range n).foldl (fun r i => if v.getLsbD i then r ||| (1#w <<< (w - 1 - i)) else r) 0#w

theorem revBits_eq_revBitsBelow : revBits v = revBitsBelow v w := rfl

theorem revBitsBelow_zero : revBitsBelow v 0 = 0#w := rfl

theorem revBitsBelow_succ (n : Nat) :
    revBitsBelow v (n + 1) =
      if v.getLsbD n then revBitsBelow v n ||| (1#w <<< (w - 1 - n)) else revBitsBelow v n := by
  simp [revBitsBelow, List.range_succ]

/-- The single bit that round `n` may set is bit `w - 1 - n`. -/
theorem one_shiftLeft_mirror_getLsbD {n i : Nat} (hn : n < w) (hi : i < w) :
    (1#w <<< (w - 1 - n)).getLsbD i = decide (w - 1 - i = n) := by
  rw [← BitVec.twoPow_eq, BitVec.getLsbD_twoPow, Bool.eq_iff_iff, Bool.and_eq_true, decide_eq_true_iff,
    decide_eq_true_iff, decide_eq_true_iff]
  omega

/-- After `n` rounds bit `i` holds bit `w - 1 - i` of `v` if that bit is placed already, and is clear otherwise. -/
theorem revBitsBelow_getLsbD {n i : Nat} (hn : n ≤ w) (hi : i < w) :
    (revBitsBelow v n).getLsbD i = (decide (w - 1 - i < n) && v.getLsbD (w - 1 - i)) := by
  induction n with
  | zero => simp [revBitsBelow_zero]
  | succ n ih =>
    have hround : (revBitsBelow v (n + 1)).getLsbD i =
        ((revBitsBelow v n).getLsbD i || (decide (w - 1 - i = n) && v.getLsbD n)) := by
      rw [revBitsBelow_succ, ← one_shiftLeft_mirror_getLsbD (by omega) hi]
      cases v.getLsbD n <;> simp
    rw [hround, ih (by omega)]
    by_cases hplace : w - 1 - i = n
    · simp [hplace]
    · have hrange : w - 1 - i < n + 1 ↔ w - 1 - i < n := by omega
      simp [hplace, hrange]

/-- Bit `i` of the reversal is bit `w - 1 - i` (R90). -/
theorem revBits_getLsbD {i : Nat} (hi : i < w) : (revBits v).getLsbD i = v.getLsbD (w - 1 - i) := by
  have hplaced : w - 1 - i < w := by omega
  rw [revBits_eq_revBitsBelow, revBitsBelow_getLsbD v le_rfl hi]
  simp [hplaced]

end

/-- R90 on a word. -/
theorem rev32_getLsbD (v : Word) {i : Nat} (hi : i < 32) : (rev32 v).getLsbD i = v.getLsbD (31 - i) :=
  revBits_getLsbD v hi

/-! ## The command -/

theorem completes_bitrev : completes .bitrev fun s => s.setRes0 (rev32 s.opa) :=
  completes_of_exec_eq fun _ => rfl

/-- Settles O20: BITREV completes with `rev32 OPA` in RES0, and `rev32_getLsbD` says which word that is; the corner
cases and the example are R91's own values. -/
theorem bitrevReversesOpaIntoRes0 : Obligations.BitrevReversesOpaIntoRes0 := by
  unfold Obligations.BitrevReversesOpaIntoRes0
  refine ⟨rfl, completes_bitrev, refusedInLockout_of_ne_clrerr nofun, fun v _ hi => rev32_getLsbD v hi,
    ?zero, ?ones, ?palindrome, ?one, ?generator⟩
  all_goals decide

end Sys2Proof.Machine
end

-- ==== the powmod family: POWMOD ====
section
/-! The products and powers of 0 and 1, and the settled statement about POWMOD. -/

namespace Sys2Proof.Machine

/-! ## Products with 0 and 1 (R95) -/

/-- A second factor with no bit set adds nothing to the accumulator. -/
@[simp] theorem mulmod_zero_right {w : Nat} (x : Word) : mulmod x (0#w) = 0#32 :=
  mulmodLoop_done w x 0#32

/-- The powers of x below x^32 are reached without a reduction. -/
theorem iterate_double_one : ∀ i < 32, double^[i] 1#32 = BitVec.twoPow 32 i := by decide

/-- Shifting right and left again clears the bits below bit `i`. -/
theorem shiftRight_shiftLeft_getLsbD {w : Nat} (y : BitVec w) (i : Nat) {j : Nat} (hj : j < w) :
    (y >>> i <<< i).getLsbD j = (decide (i ≤ j) && y.getLsbD j) := by
  by_cases hij : i ≤ j <;> simp [hij, hj]

/-- What is left from bit `i` up is bit `i` and what is left above it. -/
theorem shiftRight_shiftLeft_succ {w : Nat} (y : BitVec w) (i : Nat) :
    y >>> i <<< i = (if (y >>> i).getLsbD 0 then BitVec.twoPow w i else 0#w) ^^^ (y >>> (i + 1) <<< (i + 1)) := by
  refine BitVec.eq_of_getLsbD_eq fun j hj => ?_
  rw [BitVec.getLsbD_xor, shiftRight_shiftLeft_getLsbD y i hj, shiftRight_shiftLeft_getLsbD y (i + 1) hj,
    BitVec.getLsbD_ushiftRight, Nat.add_zero]
  by_cases hij : i = j
  · subst hij
    cases y.getLsbD i <;> simp [hj]
  · have habove : i + 1 ≤ j ↔ i ≤ j := by omega
    cases y.getLsbD i <;> simp [habove, hij]

/-- With 1 as the first factor, round `i` of the loop adds the second factor's bit `i` in its own place. -/
theorem mulmodLoop_iterate_double_one {n i : Nat} (h : i + n = 32) (y z : Word) :
    mulmodLoop n (double^[i] 1#32) (y >>> i) z = z ^^^ (y >>> i <<< i) := by
  induction n generalizing i z with
  | zero =>
    obtain rfl : i = 32 := h
    simp
  | succ n ih =>
    by_cases hy : y >>> i = 0#32
    · simp [hy]
    · rw [mulmodLoop_more _ _ _ hy, ← Function.iterate_succ_apply' double i, ← BitVec.shiftRight_add, ih (by omega),
        shiftRight_shiftLeft_succ y i, iterate_double_one i (by omega), ← BitVec.xor_assoc]
      split <;> simp

theorem mulmod_one_left (y : Word) : mulmod 1#32 y = y := by
  have hloop := mulmodLoop_iterate_double_one (n := 32) (i := 0) rfl y 0#32
  rwa [BitVec.ushiftRight_zero, BitVec.shiftLeft_zero, BitVec.zero_xor] at hloop

/-! ## Powers of 0 and 1, and the exponents 0 and 1 (R100) -/

@[simp] theorem powmod_exponent_zero (b : Word) : powmod b 0#64 = 1#32 := powmodLoop_done 64 b 1#32

/-- One round takes the only bit of the exponent. -/
theorem powmod_exponent_one (b : Word) : powmod b 1#64 = b := by
  have hround : powmod b 1#64 = powmodLoop 63 (mulmod b b) 0#64 (mulmod 1#32 b) :=
    powmodLoop_more 63 b 1#32 (by decide)
  rw [hround, powmodLoop_done, mulmod_one_left]

/-- A base that squares to itself and an accumulator that it does not move stay as they are to the end. -/
theorem powmodLoop_fixed {b z : Word} (hb : mulmod b b = b) (hz : mulmod z b = z) (n : Nat) (e : Exponent) :
    powmodLoop n b e z = z := by
  induction n generalizing e with
  | zero => rfl
  | succ n ih =>
    by_cases he : e = 0#64
    · rw [he, powmodLoop_done]
    · rw [powmodLoop_more n b z he, hb, hz, ite_self, ih]

theorem powmod_base_one (e : Exponent) : powmod 1#32 e = 1#32 :=
  powmodLoop_fixed (mulmod_one_left 1#32) (mulmod_one_left 1#32) 64 e

/-- Where the exponent has a bit to take, taking the first one clears the accumulator. -/
theorem powmodLoop_base_zero {n : Nat} {e : Exponent} (he : e ≠ 0#64) (hn : e.toNat < 2 ^ n) (z : Word) :
    powmodLoop n 0#32 e z = 0#32 := by
  induction n generalizing e with
  | zero => exact absurd (BitVec.eq_of_toNat_eq (by simpa using hn)) he
  | succ n ih =>
    rw [powmodLoop_more n 0#32 z he, mulmod_zero_right, mulmod_zero_right]
    by_cases hbit : e.getLsbD 0
    case pos =>
      rw [if_pos hbit]
      exact powmodLoop_fixed (mulmod_zero_right 0#32) (mulmod_zero_right 0#32) n _
    case neg =>
      rw [if_neg hbit]
      have hodd : e.toNat % 2 = 0 := by simpa [BitVec.getLsbD] using hbit
      have hhalf : (e >>> 1).toNat = e.toNat / 2 := by simp [Nat.shiftRight_eq_div_pow]
      refine ih ?rest ?bound
      case rest => bv_omega
      case bound => omega

theorem powmod_base_zero {e : Exponent} (he : e ≠ 0#64) : powmod 0#32 e = 0#32 :=
  powmodLoop_base_zero he e.isLt 1#32

/-! ## The command -/

theorem completes_powmod : completes .powmod fun s => s.setRes0 (powmod s.opa s.exponent) :=
  completes_of_exec_eq fun _ => rfl

/-- Settles O23: POWMOD completes with the power in RES0. The corner cases on every base or every exponent are the
lemmas above; the four remaining values are R101's own, evaluated by the kernel. -/
theorem powmodWritesPowerToRes0 : Obligations.PowmodWritesPowerToRes0 := by
  unfold Obligations.PowmodWritesPowerToRes0
  refine ⟨rfl, completes_powmod, refusedInLockout_of_ne_clrerr nofun, powmod_exponent_zero,
    fun _ => powmod_base_zero, powmod_base_one, powmod_exponent_one, ?highest, ?firstReduction, ?largest, ?r101Example⟩
  all_goals decide +kernel

end Sys2Proof.Machine
end

-- ==== the divrem_deg family: DEG and DIVREM ====
section
/-! Which bit the degree names, where long division ends without a general argument, and the settled statements about
DEG and DIVREM. -/

namespace Sys2Proof.Machine

/-! ## The degree is the index of the highest set bit (R12) -/

section
variable {w : Nat} {v : BitVec w}

/-- The search from bit `n` down passes over clear bits only. -/
theorem getLsbD_of_degBelow_lt {n i : Nat} (hi : i < n) (h : degBelow v n < i) : v.getLsbD i = false := by
  induction n with
  | zero => omega
  | succ n ih =>
    cases hbit : v.getLsbD n with
    | true =>
      rw [degBelow_succ_set hbit] at h
      omega
    | false =>
      rw [degBelow_succ_clear hbit] at h
      obtain rfl | hlow : i = n ∨ i < n := by omega
      · exact hbit
      · exact ih hlow h

/-- The search stops at a set bit. -/
theorem getLsbD_of_degBelow_eq {n d : Nat} (h : degBelow v n = d) : v.getLsbD d = true := by
  induction n with
  | zero => rw [degBelow_zero] at h; omega
  | succ n ih =>
    cases hbit : v.getLsbD n with
    | true =>
      rw [degBelow_succ_set hbit, Int.natCast_inj] at h
      rwa [← h]
    | false =>
      rw [degBelow_succ_clear hbit] at h
      exact ih h

/-- Above the degree every bit is clear. -/
theorem getLsbD_of_deg_lt {i : Nat} (h : deg v < i) : v.getLsbD i = false := by
  by_cases hi : i < w
  · exact getLsbD_of_degBelow_lt hi h
  · exact BitVec.getLsbD_of_ge v i (by omega)

/-- The bit at the degree is set. -/
theorem getLsbD_of_deg_eq {d : Nat} (h : deg v = d) : v.getLsbD d = true :=
  getLsbD_of_degBelow_eq h

/-- Only zero has no set bit, and so the degree -1. -/
theorem deg_nonneg (hv : v ≠ 0#w) : 0 ≤ deg v := by
  by_contra hneg
  refine hv (BitVec.eq_of_getLsbD_eq fun i _ => ?_)
  rw [BitVec.getLsbD_zero]
  exact getLsbD_of_deg_lt (by omega)

theorem exists_deg_eq (hv : v ≠ 0#w) : ∃ d : Nat, deg v = d :=
  Int.eq_ofNat_of_zero_le (deg_nonneg hv)

end

/-! ## Long division at its edges (R105) -/

section
variable {w : Nat}

@[simp] theorem divrem_zero_left (y : BitVec w) : divrem 0#w y = (0#w, 0#w) :=
  if_pos rfl

theorem divrem_of_ne_zero {x : BitVec w} (hx : x ≠ 0#w) (y : BitVec w) :
    divrem x y = divremLoop y (deg y).toNat (deg x - deg y + 1).toNat x 0#w :=
  if_neg hx

/-- A dividend of smaller degree than the divisor gets no iteration. -/
theorem divrem_of_deg_lt {x y : BitVec w} (h : deg x < deg y) : divrem x y = (0#w, x) := by
  by_cases hx : x = 0#w
  · rw [hx, divrem_zero_left]
  · have hrounds : (deg x - deg y + 1).toNat = 0 := by omega
    rw [divrem_of_ne_zero hx, hrounds, divremLoop_zero]

/-- One iteration cancels the whole dividend. -/
theorem divrem_self {x : BitVec w} (hx : x ≠ 0#w) : divrem x x = (1#w, 0#w) := by
  obtain ⟨d, hd⟩ := exists_deg_eq hx
  have hlead : x.getLsbD (0 + d) = true := by rw [Nat.zero_add, getLsbD_of_deg_eq hd]
  have hrounds : ((d : Int) - d + 1).toNat = 0 + 1 := by omega
  rw [divrem_of_ne_zero hx, hd, hrounds, Int.toNat_natCast, divremLoop_set x d 0 0#w hlead, divremLoop_zero,
    BitVec.shiftLeft_zero, BitVec.shiftLeft_zero, BitVec.xor_self, BitVec.zero_or]

theorem one_shiftLeft_getLsbD {i : Nat} (hi : i < w) (j : Nat) : (1#w <<< i).getLsbD j = decide (i = j) := by
  rw [← BitVec.twoPow_eq, BitVec.getLsbD_twoPow, decide_eq_true hi, Bool.true_and]

/-- Cancelling a set bit with the divisor 1 clears that bit and no other. -/
theorem xor_one_shiftLeft_getLsbD {x : BitVec w} {i : Nat} (hi : x.getLsbD i = true) (j : Nat) :
    (x ^^^ (1#w <<< i)).getLsbD j = (x.getLsbD j && decide (i ≠ j)) := by
  rw [BitVec.getLsbD_xor, one_shiftLeft_getLsbD (BitVec.lt_of_getLsbD hi)]
  by_cases hij : i = j
  · simp [← hij, hi]
  · simp [hij]

/-- The cancelled bit is kept in the quotient. -/
theorem or_one_shiftLeft_or_xor {x : BitVec w} {i : Nat} (hi : x.getLsbD i = true) (q : BitVec w) :
    (q ||| 1#w <<< i) ||| (x ^^^ (1#w <<< i)) = q ||| x := by
  refine BitVec.eq_of_getLsbD_eq fun j _ => ?_
  rw [BitVec.getLsbD_or, BitVec.getLsbD_or, BitVec.getLsbD_or, xor_one_shiftLeft_getLsbD hi,
    one_shiftLeft_getLsbD (BitVec.lt_of_getLsbD hi)]
  by_cases hij : i = j
  · simp [← hij, hi]
  · simp [hij]

/-- With the divisor 1 the loop moves the dividend into the quotient bit by bit. -/
theorem divremLoop_one {n : Nat} {x : BitVec w} (hx : ∀ i, n ≤ i → x.getLsbD i = false) (q : BitVec w) :
    divremLoop 1#w 0 n x q = (q ||| x, 0#w) := by
  induction n generalizing x q with
  | zero =>
    obtain rfl : x = 0#w := BitVec.eq_of_getLsbD_eq fun i _ => by rw [hx i i.zero_le, BitVec.getLsbD_zero]
    rw [divremLoop_zero, BitVec.or_zero]
  | succ n ih =>
    cases hbit : x.getLsbD n with
    | true =>
      have hrest : ∀ i, n ≤ i → (x ^^^ (1#w <<< n)).getLsbD i = false := fun i hi => by
        rw [xor_one_shiftLeft_getLsbD hbit]
        obtain rfl | hlt := hi.eq_or_lt
        · simp
        · simp [hx i hlt]
      rw [divremLoop_set 1#w 0 n q hbit, ih hrest, or_one_shiftLeft_or_xor hbit]
    | false =>
      have hrest : ∀ i, n ≤ i → x.getLsbD i = false := fun i hi => by
        obtain rfl | hlt := hi.eq_or_lt
        · exact hbit
        · exact hx i hlt
      rw [divremLoop_clear 1#w 0 n q hbit, ih hrest]

end

theorem divrem_one (x : Word) : divrem x 1#32 = (x, 0#32) := by
  by_cases hx : x = 0#32
  · rw [hx, divrem_zero_left]
  · have hone : deg 1#32 = 0 := by decide
    have habove : ∀ i, (deg x - 0 + 1).toNat ≤ i → x.getLsbD i = false := fun i hi =>
      getLsbD_of_deg_lt (by omega)
    rw [divrem_of_ne_zero hx, hone, Int.toNat_zero, divremLoop_one habove, BitVec.zero_or]

/-! ## The commands -/

theorem completes_deg : completes .deg fun s => s.setRes0 (degWord s.opa) :=
  completes_of_exec_eq fun _ => rfl

theorem degWord_of_ne_zero {v : Word} (hv : v ≠ 0#32) : degWord v = BitVec.ofNat 32 (deg v).toNat :=
  if_pos hv

theorem degWord_of_eq_zero {v : Word} (hv : v = 0#32) : degWord v = 0xFFFFFFFF#32 :=
  if_neg (not_not_intro hv)

/-- What a completing command does, said for the states of one case. -/
theorem completesWhen_of_completes {i : Instr} {pre : State → Prop} {f g : State → State} (hi : completes i f)
    (h : ∀ s, pre s → f s = g s) : completesWhen i pre g :=
  fun s hopen hpre => h s hpre ▸ hi s hopen trivial

/-- Out of lockout only the test of the divisor is left (R106). -/
theorem exec_divrem_open {s : State} (hopen : s.err = 0#4) :
    exec .divrem s =
      if s.opb = 0#32 then raiseFault .div0 s
      else complete ((s.setRes0 (divrem s.opa s.opb).1).setRes1 (divrem s.opa s.opb).2) := by
  rw [exec, execDivrem, unlessLocked_open hopen]

theorem divrem_faults : faultsWhen .divrem (fun s => s.opb = 0#32) 1#4 :=
  fun _ hopen hy => (exec_divrem_open hopen).trans (if_pos hy)

theorem divrem_completes : completesWhen .divrem (fun s => s.opb ≠ 0#32)
    fun s => (s.setRes0 (divrem s.opa s.opb).1).setRes1 (divrem s.opa s.opb).2 :=
  fun _ hopen hy => (exec_divrem_open hopen).trans (if_neg hy)

/-- Settles O21: DEG completes with `degWord OPA` in RES0, split at OPA = 0; that the degree is the index of the highest
set bit is `getLsbD_of_deg_eq` with `getLsbD_of_deg_lt`. -/
theorem degWritesDegreeOrAllOnes : Obligations.DegWritesDegreeOrAllOnes := by
  unfold Obligations.DegWritesDegreeOrAllOnes
  refine ⟨rfl, completesWhen_of_completes completes_deg fun s hv => ?nonzero,
    completesWhen_of_completes completes_deg fun s hv => ?zero, refusedInLockout_of_ne_clrerr nofun,
    fun v hv => ?highest, by decide, by decide, by decide, by decide⟩
  case nonzero => rw [degWord_of_ne_zero hv]; rfl
  case zero => rw [degWord_of_eq_zero hv]; rfl
  case highest =>
    obtain ⟨d, hd⟩ := exists_deg_eq hv
    obtain ⟨-, hwidth⟩ := deg_bounds v
    exact ⟨d, by omega, hd, getLsbD_of_deg_eq hd, fun i hi => getLsbD_of_deg_lt (by omega)⟩

/-- Settles O24: DIVREM faults or completes by the test of OPB, and the corner cases are the edges of long division
above; the example is evaluated. -/
theorem divremWritesQuotientAndRemainder : Obligations.DivremWritesQuotientAndRemainder := by
  unfold Obligations.DivremWritesQuotientAndRemainder
  exact ⟨rfl, divrem_faults, divrem_completes, refusedInLockout_of_ne_clrerr nofun, fun y _ => divrem_zero_left y,
    fun _ _ _ => divrem_of_deg_lt, divrem_one, fun _ => divrem_self, by decide⟩

end Sys2Proof.Machine
end

-- ==== the invmod family: bit vectors as polynomials over GF(2) ====
section
/-! The polynomial a bit vector encodes, what the operations on bit vectors do to it, and long division as division
with remainder. -/

namespace Sys2Proof.Machine

open Polynomial

section
variable {w : Nat}

/-- The polynomial over GF(2) that a bit vector encodes: bit i is the coefficient of x^i (R4). -/
noncomputable def toPoly (v : BitVec w) : (ZMod 2)[X] :=
  ∑ i ∈ Finset.range w, if v.getLsbD i then X ^ i else 0

theorem toPoly_coeff (v : BitVec w) (i : Nat) : (toPoly v).coeff i = if v.getLsbD i then 1 else 0 := by
  have hterm : ∀ j, (if v.getLsbD j then (X : (ZMod 2)[X]) ^ j else 0).coeff i =
      if i = j then (if v.getLsbD i then 1 else 0) else 0 := fun j => by
    by_cases hij : i = j
    · subst hij; cases v.getLsbD i <;> simp
    · cases v.getLsbD j <;> simp [coeff_X_pow, hij]
  rw [toPoly, finsetSum_coeff, Finset.sum_congr rfl fun j _ => hterm j, Finset.sum_ite_eq]
  by_cases hi : i < w
  · rw [if_pos (Finset.mem_range.2 hi)]
  · rw [if_neg (Finset.mem_range.not.2 hi), BitVec.getLsbD_of_ge v i (by omega)]; rfl

/-- Vectors of any two widths with the same bits encode the same polynomial. -/
theorem toPoly_eq_of_bits {m : Nat} {u : BitVec m} {v : BitVec w} (h : ∀ i, u.getLsbD i = v.getLsbD i) :
    toPoly u = toPoly v := by
  ext i
  rw [toPoly_coeff, toPoly_coeff, h]

theorem toPoly_coeff_eq_one_iff (v : BitVec w) (i : Nat) : (toPoly v).coeff i = 1 ↔ v.getLsbD i = true := by
  rw [toPoly_coeff]
  cases v.getLsbD i <;> simp

theorem toPoly_injective : Function.Injective (toPoly (w := w)) := fun u v h =>
  BitVec.eq_of_getLsbD_eq fun i _ => by
    rw [Bool.eq_iff_iff, ← toPoly_coeff_eq_one_iff, ← toPoly_coeff_eq_one_iff, h]

@[simp] theorem toPoly_zero : toPoly (0#w) = 0 := by
  ext i
  simp [toPoly_coeff]

/-- The xor is the sum (R6). -/
@[simp] theorem toPoly_xor (u v : BitVec w) : toPoly (u ^^^ v) = toPoly u + toPoly v := by
  ext i
  rw [coeff_add, toPoly_coeff, toPoly_coeff, toPoly_coeff, BitVec.getLsbD_xor]
  cases u.getLsbD i <;> cases v.getLsbD i <;> decide

theorem toPoly_twoPow {i : Nat} (hi : i < w) : toPoly (BitVec.twoPow w i) = X ^ i := by
  ext j
  rw [toPoly_coeff, BitVec.getLsbD_twoPow, decide_eq_true hi, Bool.true_and, coeff_X_pow]
  simp [eq_comm]

theorem toPoly_one (hw : 0 < w) : toPoly 1#w = 1 := by
  rw [← BitVec.twoPow_zero, toPoly_twoPow hw, pow_zero]

/-- Setting a bit that is clear adds its power of x. -/
theorem toPoly_or_one_shiftLeft {v : BitVec w} {i : Nat} (hi : i < w) (hbit : v.getLsbD i = false) :
    toPoly (v ||| 1#w <<< i) = toPoly v + X ^ i := by
  rw [← toPoly_twoPow hi, ← toPoly_xor]
  refine toPoly_eq_of_bits fun j => ?_
  rw [BitVec.getLsbD_or, BitVec.getLsbD_xor, BitVec.twoPow_eq, one_shiftLeft_getLsbD hi]
  by_cases hij : i = j
  · simp [← hij, hbit]
  · simp [hij]

/-- A change of width that cuts off clear bits only. -/
theorem toPoly_setWidth {v : BitVec w} {m : Nat} (h : ∀ i, m ≤ i → v.getLsbD i = false) :
    toPoly (v.setWidth m) = toPoly v :=
  toPoly_eq_of_bits fun i => by
    by_cases hi : i < m
    · simp [hi]
    · simp [hi, h i (by omega)]

theorem toPoly_setWidth_of_le (v : BitVec w) {m : Nat} (h : w ≤ m) : toPoly (v.setWidth m) = toPoly v :=
  toPoly_setWidth fun i hi => BitVec.getLsbD_of_ge v i (h.trans hi)

/-- A left shift that pushes out clear bits only multiplies by a power of x. -/
theorem toPoly_shiftLeft {v : BitVec w} {n : Nat} (h : ∀ i, w ≤ i + n → v.getLsbD i = false) :
    toPoly (v <<< n) = toPoly v * X ^ n := by
  ext i
  rw [toPoly_coeff, coeff_mul_X_pow', BitVec.getLsbD_shiftLeft, toPoly_coeff]
  by_cases hni : n ≤ i
  · by_cases hi : i < w
    · simp [hni, hi, Nat.not_lt.2 hni]
    · simp [hni, hi, h (i - n) (by omega)]
  · simp [hni, Nat.lt_of_not_le hni]

/-- The lowest bit, and what a right shift leaves times x. -/
theorem toPoly_eq_bit_add_shiftRight (v : BitVec w) :
    toPoly v = (if v.getLsbD 0 then (1 : (ZMod 2)[X]) else 0) + X * toPoly (v >>> 1) := by
  ext i
  cases i with
  | zero => cases h : v.getLsbD 0 <;> simp [toPoly_coeff, h]
  | succ i =>
    rw [coeff_add, coeff_X_mul, toPoly_coeff, toPoly_coeff, BitVec.getLsbD_ushiftRight, Nat.add_comm 1 i]
    cases v.getLsbD 0 <;> simp [coeff_one]

theorem toPoly_degree_lt {v : BitVec w} {n : Nat} (h : ∀ i, n ≤ i → v.getLsbD i = false) :
    (toPoly v).degree < n :=
  (degree_lt_iff_coeff_zero _ _).2 fun i hi => by rw [toPoly_coeff, h i hi]; rfl

/-- The only unit of GF(2)[x] is 1. -/
theorem eq_one_of_isUnit_toPoly {v : BitVec w} (hw : 0 < w) (h : IsUnit (toPoly v)) : v = 1#w := by
  obtain ⟨c, hc, hv⟩ := Polynomial.isUnit_iff.1 h
  rw [isUnit_iff_eq_one.1 hc, map_one] at hv
  exact toPoly_injective (by rw [← hv, toPoly_one hw])

/-! ## The degree, from the bits (R12) -/

theorem deg_lt_of_bits {v : BitVec w} {n : Nat} (h : ∀ i, n ≤ i → v.getLsbD i = false) : deg v < n := by
  by_contra hge
  obtain ⟨d, hd⟩ := Int.eq_ofNat_of_zero_le (a := deg v) (by omega)
  have hset := getLsbD_of_deg_eq hd
  rw [h d (by omega)] at hset
  exact Bool.false_ne_true hset

theorem deg_le_of_bits {m : Nat} {u : BitVec m} {v : BitVec w} (h : ∀ i, u.getLsbD i = v.getLsbD i) :
    deg u ≤ deg v := by
  have hlt : deg u < (deg v + 1).toNat := deg_lt_of_bits fun i hi => by rw [h, getLsbD_of_deg_lt (by omega)]
  obtain ⟨hlow, -⟩ := deg_bounds v
  omega

end

theorem setWidth_33_getLsbD (y : Word) (i : Nat) : (y.setWidth 33).getLsbD i = y.getLsbD i := by
  by_cases hi : i < 33
  · simp [hi]
  · simp [hi, BitVec.getLsbD_of_ge y i (by omega)]

theorem deg_setWidth_33 (y : Word) : deg (y.setWidth 33) = deg y :=
  le_antisymm (deg_le_of_bits (setWidth_33_getLsbD y)) (deg_le_of_bits fun i => (setWidth_33_getLsbD y i).symm)

/-! ## Long division (R105) -/

section
variable {w : Nat} {y : BitVec w} {d : Nat}

/-- Where the dividend ends at bit `i + d`, `y << i` cancels that bit and reaches no higher one. -/
theorem xor_shiftLeft_getLsbD {x : BitVec w} {i : Nat} (hy : deg y = d)
    (hx : ∀ j, i + 1 + d ≤ j → x.getLsbD j = false) (hbit : x.getLsbD (i + d) = true) {j : Nat} (hj : i + d ≤ j) :
    (x ^^^ (y <<< i)).getLsbD j = false := by
  have hwidth : i + d < w := BitVec.lt_of_getLsbD hbit
  rw [BitVec.getLsbD_xor, BitVec.getLsbD_shiftLeft]
  obtain rfl | hlt := hj.eq_or_lt
  · simp [hbit, hwidth, getLsbD_of_deg_eq hy]
  · rw [hx j (by omega), getLsbD_of_deg_lt (v := y) (i := j - i) (by omega)]
    simp

/-- The loop keeps the sum of the quotient so far times the divisor and of what is left to divide. -/
theorem toPoly_divremLoop (hy : deg y = d) {n : Nat} {x q : BitVec w} (hx : ∀ j, n + d ≤ j → x.getLsbD j = false)
    (hq : ∀ j < n, q.getLsbD j = false) :
    toPoly (divremLoop y d n x q).1 * toPoly y + toPoly (divremLoop y d n x q).2 =
      toPoly q * toPoly y + toPoly x := by
  induction n generalizing x q with
  | zero => rfl
  | succ n ih =>
    cases hbit : x.getLsbD (n + d) with
    | false =>
      rw [divremLoop_clear y d n q hbit]
      refine ih (fun j hj => ?_) fun j hj => hq j (by omega)
      obtain rfl | hlt := hj.eq_or_lt
      · exact hbit
      · exact hx j (by omega)
    | true =>
      have hwidth : n + d < w := BitVec.lt_of_getLsbD hbit
      have hshift : toPoly (y <<< n) = toPoly y * X ^ n :=
        toPoly_shiftLeft fun j hj => getLsbD_of_deg_lt (by omega)
      have hquot : ∀ j < n, (q ||| 1#w <<< n).getLsbD j = false := fun j hj => by
        rw [BitVec.getLsbD_or, hq j (by omega), one_shiftLeft_getLsbD (by omega), Bool.false_or,
          decide_eq_false (by omega)]
      rw [divremLoop_set y d n q hbit, ih (fun j hj => xor_shiftLeft_getLsbD hy hx hbit hj) hquot,
        toPoly_or_one_shiftLeft (by omega) (hq n (by omega)), toPoly_xor, hshift]
      linear_combination toPoly y * X ^ n * (CharTwo.two_eq_zero : (2 : (ZMod 2)[X]) = 0)

/-- Each iteration leaves less of the dividend, and at the end it is shorter than the divisor. -/
theorem divremLoop_remainder_bits (hy : deg y = d) {n : Nat} {x : BitVec w} (q : BitVec w)
    (hx : ∀ j, n + d ≤ j → x.getLsbD j = false) {j : Nat} (hj : d ≤ j) :
    (divremLoop y d n x q).2.getLsbD j = false := by
  induction n generalizing x q with
  | zero => exact hx j (by omega)
  | succ n ih =>
    cases hbit : x.getLsbD (n + d) with
    | false =>
      rw [divremLoop_clear y d n q hbit]
      refine ih q fun j hj => ?_
      obtain rfl | hlt := hj.eq_or_lt
      · exact hbit
      · exact hx j (by omega)
    | true =>
      rw [divremLoop_set y d n q hbit]
      exact ih _ fun j hj => xor_shiftLeft_getLsbD hy hx hbit hj

/-- The loop runs from the dividend's own top bit. -/
theorem getLsbD_of_divrem_rounds_le (hy : deg y = d) {x : BitVec w} {j : Nat}
    (hj : (deg x - deg y + 1).toNat + d ≤ j) : x.getLsbD j = false :=
  getLsbD_of_deg_lt (by omega)

/-- R108 (a): quotient times divisor, and the remainder, make up the dividend. -/
theorem toPoly_divrem (x : BitVec w) (hy : y ≠ 0#w) :
    toPoly (divrem x y).1 * toPoly y + toPoly (divrem x y).2 = toPoly x := by
  obtain ⟨d, hd⟩ := exists_deg_eq hy
  have hdegree : (deg y).toNat = d := by omega
  by_cases hx : x = 0#w
  · rw [hx, divrem_zero_left, toPoly_zero, zero_mul, zero_add]
  · rw [divrem_of_ne_zero hx, hdegree,
      toPoly_divremLoop hd (fun _ => getLsbD_of_divrem_rounds_le hd) fun _ _ => BitVec.getLsbD_zero,
      toPoly_zero, zero_mul, zero_add]

/-- R108 (b): the remainder has no bit from the divisor's degree on. -/
theorem divrem_remainder_bits (x : BitVec w) (hy : y ≠ 0#w) {j : Nat} (hj : deg y ≤ j) :
    (divrem x y).2.getLsbD j = false := by
  obtain ⟨d, hd⟩ := exists_deg_eq hy
  have hdegree : (deg y).toNat = d := by omega
  by_cases hx : x = 0#w
  · rw [hx, divrem_zero_left, BitVec.getLsbD_zero]
  · rw [divrem_of_ne_zero hx, hdegree,
      divremLoop_remainder_bits hd _ (fun _ => getLsbD_of_divrem_rounds_le hd) (by omega)]

end

end Sys2Proof.Machine
end

-- ==== the invmod family: residues modulo the generator ====
section
/-! The ring of polynomials modulo `P33`, in which `mulmod` multiplies and `powmod` takes powers, and why every word but
0 is a unit of it: x has as many powers as there are such words (R11). -/

namespace Sys2Proof.Machine

open Polynomial

/-- The polynomials over GF(2) modulo the generator. -/
abbrev ResidueRing : Type := AdjoinRoot (toPoly Config.p33)

/-- The residue of the polynomial a bit vector encodes. -/
noncomputable def residue {w : Nat} (v : BitVec w) : ResidueRing := AdjoinRoot.mk (toPoly Config.p33) (toPoly v)

theorem toPoly_p33_degree : (toPoly Config.p33).degree = 32 := by
  refine le_antisymm (Order.lt_succ_iff.1 ?below) (le_degree_of_ne_zero ?top)
  case below => exact toPoly_degree_lt fun i hi => BitVec.getLsbD_of_ge _ i hi
  case top => rw [toPoly_coeff]; exact one_ne_zero

@[simp] theorem residue_zero (w : Nat) : residue (0#w) = 0 := by rw [residue, toPoly_zero, map_zero]

@[simp] theorem residue_xor {w : Nat} (u v : BitVec w) : residue (u ^^^ v) = residue u + residue v := by
  rw [residue, toPoly_xor, map_add, ← residue, ← residue]

theorem residue_setWidth_of_le {w m : Nat} (v : BitVec w) (h : w ≤ m) : residue (v.setWidth m) = residue v := by
  rw [residue, toPoly_setWidth_of_le v h, ← residue]

@[simp] theorem residue_p33 : residue Config.p33 = 0 := AdjoinRoot.mk_self

theorem residue_one {w : Nat} (hw : 0 < w) : residue 1#w = 1 := by rw [residue, toPoly_one hw, map_one]

/-- The word 2 encodes x. -/
theorem residue_two : residue 2#32 = AdjoinRoot.mk (toPoly Config.p33) X := by
  have htwo : toPoly 2#32 = X ^ 1 := toPoly_twoPow (w := 32) (i := 1) (by decide)
  rw [residue, htwo, pow_one]

/-- Words are reduced: two of them differ by a polynomial of smaller degree than the generator. -/
theorem residue_injective : Function.Injective (residue (w := 32)) := fun u v h => by
  have hbelow : (toPoly u - toPoly v).degree < (toPoly Config.p33).degree := by
    rw [CharTwo.sub_eq_add, ← toPoly_xor, toPoly_p33_degree]
    exact toPoly_degree_lt fun i hi => BitVec.getLsbD_of_ge _ i hi
  exact toPoly_injective (sub_eq_zero.1 (eq_zero_of_dvd_of_degree_lt (AdjoinRoot.mk_eq_mk.1 h) hbelow))

theorem residue_one_ne_zero : (1 : ResidueRing) ≠ 0 := by
  rw [← residue_one (w := 32) (by decide), ← residue_zero 32, residue_injective.ne_iff]
  decide

/-! ## Products (R95, R97) -/

/-- Xoring the generator in where bit 32 is set clears that bit and changes no residue. -/
theorem residue_reduce (d : Poly33) :
    residue ((if d.getLsbD 32 then d ^^^ Config.p33 else d).setWidth 32) = residue d := by
  have hclear : ∀ i, 32 ≤ i → (if d.getLsbD 32 then d ^^^ Config.p33 else d).getLsbD i = false := fun i hi => by
    obtain rfl | hlt := hi.eq_or_lt
    · have htop : Config.p33.getLsbD 32 = true := rfl
      by_cases hbit : d.getLsbD 32
      · rw [if_pos hbit, BitVec.getLsbD_xor, hbit, htop, Bool.xor_self]
      · rw [if_neg hbit, Bool.eq_false_of_not_eq_true hbit]
    · exact BitVec.getLsbD_of_ge _ i hlt
  rw [residue, toPoly_setWidth hclear, ← residue]
  split
  · rw [residue_xor, residue_p33, add_zero]
  · rfl

theorem residue_double (x : Word) : residue (double x) = residue 2#32 * residue x := by
  have hshift : toPoly (x.setWidth 33 <<< 1) = toPoly x * X := by
    rw [toPoly_shiftLeft, toPoly_setWidth_of_le x (by decide), pow_one]
    intro i hi
    rw [setWidth_33_getLsbD, BitVec.getLsbD_of_ge x i (by omega)]
  rw [double, residue_reduce, residue, hshift, map_mul, ← residue_two, mul_comm, ← residue]

theorem residue_eq_bit_add_shiftRight {w : Nat} (y : BitVec w) :
    residue y = (if y.getLsbD 0 then 1 else 0) + residue 2#32 * residue (y >>> 1) := by
  have hsplit : residue y = AdjoinRoot.mk _ (if y.getLsbD 0 then 1 else 0) + residue 2#32 * residue (y >>> 1) := by
    rw [residue_two, residue, residue, ← map_mul, ← map_add]
    exact congrArg _ (toPoly_eq_bit_add_shiftRight y)
  rw [hsplit]
  cases y.getLsbD 0 <;> simp

/-- The loop of R95, with an iteration for every bit of the second factor. -/
theorem residue_mulmodLoop {w n : Nat} {y : BitVec w} (hy : ∀ i, n ≤ i → y.getLsbD i = false) (x z : Word) :
    residue (mulmodLoop n x y z) = residue z + residue x * residue y := by
  induction n generalizing x y z with
  | zero =>
    obtain rfl : y = 0#w := BitVec.eq_of_getLsbD_eq fun i _ => by rw [hy i i.zero_le, BitVec.getLsbD_zero]
    simp
  | succ n ih =>
    by_cases hzero : y = 0#w
    · simp [hzero]
    · have hrest : ∀ i, n ≤ i → (y >>> 1).getLsbD i = false := fun i hi => by
        rw [BitVec.getLsbD_ushiftRight, hy (1 + i) (by omega)]
      rw [mulmodLoop_more n x z hzero, ih hrest, residue_double, residue_eq_bit_add_shiftRight y]
      cases y.getLsbD 0
      · simp only [Bool.false_eq_true, if_false]; ring
      · simp only [if_true, residue_xor]; ring

/-- `mulmod` multiplies residues, whatever the width of the second factor. -/
@[simp] theorem residue_mulmod {w : Nat} (x : Word) (y : BitVec w) : residue (mulmod x y) = residue x * residue y := by
  rw [mulmod, residue_mulmodLoop fun i hi => BitVec.getLsbD_of_ge y i hi, residue_zero, zero_add]

/-! ## Powers (R100) -/

/-- The loop of R100, with an iteration for every bit of the exponent. -/
theorem residue_powmodLoop {n : Nat} {e : Exponent} (he : e.toNat < 2 ^ n) (b z : Word) :
    residue (powmodLoop n b e z) = residue z * residue b ^ e.toNat := by
  induction n generalizing b e z with
  | zero =>
    obtain rfl : e = 0#64 := BitVec.eq_of_toNat_eq (by simpa using he)
    simp
  | succ n ih =>
    by_cases hzero : e = 0#64
    · simp [hzero]
    · have hhalf : (e >>> 1).toNat = e.toNat / 2 := by simp [Nat.shiftRight_eq_div_pow]
      have hlow : e.getLsbD 0 = decide (e.toNat % 2 = 1) := by simp [BitVec.getLsbD]
      rw [powmodLoop_more n b z hzero, ih (by omega), residue_mulmod, ← pow_two, ← pow_mul, hhalf, hlow]
      obtain heven | hodd : e.toNat % 2 = 0 ∨ e.toNat % 2 = 1 := by omega
      · have hexp : 2 * (e.toNat / 2) = e.toNat := by omega
        rw [if_neg (by simp [heven]), hexp]
      · have hexp : 2 * (e.toNat / 2) + 1 = e.toNat := by omega
        rw [if_pos (by simp [hodd]), residue_mulmod, mul_assoc, ← pow_succ', hexp]

/-- `powmod` takes powers of residues. -/
@[simp] theorem residue_powmod (b : Word) (e : Exponent) : residue (powmod b e) = residue b ^ e.toNat := by
  rw [powmod, residue_powmodLoop e.isLt, residue_one (by decide), one_mul]

/-! ## The order of x (R11) -/

theorem powmod_two_groupOrder : powmod 2#32 0xFFFFFFFF#64 = 1#32 := by decide +kernel

/-- The tests at the prime factors of 2^32 - 1 (R11): no proper divisor of it is the order of x. -/
theorem powmod_two_ne_one :
    ∀ p ∈ [3, 5, 17, 257, 65537], powmod 2#32 (BitVec.ofNat 64 (4294967295 / p)) ≠ 1#32 := by decide +kernel

/-- The prime factors of 2^32 - 1 are the first five Fermat numbers. -/
theorem prime_dvd_groupOrder {p : Nat} (hp : p.Prime) (h : p ∣ 4294967295) : p ∈ [3, 5, 17, 257, 65537] := by
  have hfactors : 4294967295 = 3 * 5 * 17 * 257 * 65537 := by norm_num
  have h3 : Nat.Prime 3 := by norm_num
  have h5 : Nat.Prime 5 := by norm_num
  have h17 : Nat.Prime 17 := by norm_num
  have h257 : Nat.Prime 257 := by norm_num
  have h65537 : Nat.Prime 65537 := by norm_num
  rw [hfactors, hp.dvd_mul, hp.dvd_mul, hp.dvd_mul, hp.dvd_mul, Nat.prime_dvd_prime_iff_eq hp h3,
    Nat.prime_dvd_prime_iff_eq hp h5, Nat.prime_dvd_prime_iff_eq hp h17,
    Nat.prime_dvd_prime_iff_eq hp h257, Nat.prime_dvd_prime_iff_eq hp h65537] at h
  simpa [or_assoc] using h

theorem orderOf_residue_two : orderOf (residue 2#32) = 4294967295 := by
  refine orderOf_eq_of_pow_and_pow_div_prime (by norm_num) ?full fun p hp hdvd hone => ?proper
  case full =>
    rw [← residue_one (w := 32) (by decide), ← powmod_two_groupOrder, residue_powmod]
    rfl
  case proper =>
    refine powmod_two_ne_one p (prime_dvd_groupOrder hp hdvd) (residue_injective ?_)
    have hexp : (BitVec.ofNat 64 (4294967295 / p)).toNat = 4294967295 / p :=
      Nat.mod_eq_of_lt ((Nat.div_le_self _ _).trans_lt (by norm_num))
    rw [residue_powmod, hexp, hone, residue_one (by decide)]

theorem isUnit_residue_two : IsUnit (residue 2#32) :=
  .of_pow_eq_one (orderOf_residue_two ▸ pow_orderOf_eq_one _) (by norm_num)

theorem powmod_two_ne_zero (e : Exponent) : powmod 2#32 e ≠ 0#32 := fun h => by
  have hunit := isUnit_residue_two.pow e.toNat
  rw [← residue_powmod, h, residue_zero] at hunit
  exact residue_one_ne_zero (isUnit_zero_iff.1 hunit).symm

/-- A power of x, its exponent an ordinary number. -/
def powerOfX (k : Nat) : Word := powmod 2#32 (BitVec.ofNat 64 k)

theorem powerOfX_injOn : Set.InjOn powerOfX (Finset.range 4294967295) := by
  intro j hj k hk hjk
  have hj' : j < 4294967295 := Finset.mem_range.1 hj
  have hk' : k < 4294967295 := Finset.mem_range.1 hk
  have hpow := congrArg residue hjk
  rw [powerOfX, powerOfX, residue_powmod, residue_powmod, BitVec.toNat_ofNat, BitVec.toNat_ofNat,
    Nat.mod_eq_of_lt (by omega), Nat.mod_eq_of_lt (by omega)] at hpow
  refine pow_injOn_Iio_orderOf ?_ ?_ hpow <;> rwa [orderOf_residue_two]

theorem card_nonzero_words : (Finset.univ.erase 0#32).card = 4294967295 := by
  rw [Finset.card_erase_of_mem (Finset.mem_univ _), Finset.card_univ, ← FinEnum.card_eq_fintypeCard,
    FinEnum.card_bitVec]
  norm_num

/-- The powers of x below the order are as many as the words other than 0, so they are all of them. -/
theorem image_powerOfX : (Finset.range 4294967295).image powerOfX = Finset.univ.erase 0#32 := by
  refine Finset.eq_of_subset_of_card_le (fun u hu => ?nonzero) ?count
  case nonzero =>
    obtain ⟨k, -, rfl⟩ := Finset.mem_image.1 hu
    exact Finset.mem_erase.2 ⟨powmod_two_ne_zero _, Finset.mem_univ _⟩
  case count => rw [card_nonzero_words, Finset.card_image_of_injOn powerOfX_injOn, Finset.card_range]

/-- x generates the words other than 0. -/
theorem exists_powmod_two_eq {v : Word} (hv : v ≠ 0#32) : ∃ e : Exponent, powmod 2#32 e = v := by
  have hmem : v ∈ (Finset.range 4294967295).image powerOfX := by
    rw [image_powerOfX]
    exact Finset.mem_erase.2 ⟨hv, Finset.mem_univ v⟩
  obtain ⟨k, -, hk⟩ := Finset.mem_image.1 hmem
  exact ⟨BitVec.ofNat 64 k, hk⟩

theorem isUnit_residue {v : Word} (hv : v ≠ 0#32) : IsUnit (residue v) := by
  obtain ⟨e, rfl⟩ := exists_powmod_two_eq hv
  rw [residue_powmod]
  exact isUnit_residue_two.pow _

/-- The generator has no factor in common with a word other than 0. -/
theorem isCoprime_p33 {v : Word} (hv : v ≠ 0#32) : IsCoprime (toPoly Config.p33) (toPoly v) := by
  obtain ⟨u, hu⟩ := isUnit_iff_exists_inv'.1 (isUnit_residue hv)
  obtain ⟨b, rfl⟩ := AdjoinRoot.mk_surjective u
  rw [residue, ← map_mul, ← map_one (AdjoinRoot.mk _), AdjoinRoot.mk_eq_mk] at hu
  obtain ⟨c, hc⟩ := hu
  exact ⟨-c, b, by linear_combination hc⟩

end Sys2Proof.Machine
end

-- ==== the invmod family: INVMOD ====
section
/-! What the Euclidean loop keeps and where it ends, and the settled statement about INVMOD. -/

namespace Sys2Proof.Machine

/-! ## The Euclidean loop (R112, R114) -/

/-- The quotient of one iteration. -/
def Euclid.quotient (e : Euclid) : Poly33 := (divrem e.X (e.Y.setWidth 33)).1

theorem euclidStep_X (e : Euclid) : (euclidStep e).X = e.Y.setWidth 33 := rfl

theorem euclidStep_A (e : Euclid) : (euclidStep e).A = e.B := rfl

theorem euclidStep_B (e : Euclid) : (euclidStep e).B = e.A ^^^ mulmod e.B e.quotient := rfl

section
variable {v : Word} {e : Euclid}

theorem setWidth_33_ne_zero {y : Word} (hy : y ≠ 0#32) : y.setWidth 33 ≠ 0#33 := fun h =>
  hy (toPoly_injective (by rw [← toPoly_setWidth_of_le y (by decide : 32 ≤ 33), h, toPoly_zero, toPoly_zero]))

/-- No bit of the remainder from the degree of `Y` on, so cutting it to a word loses nothing. -/
theorem euclid_remainder_bits (hy : e.Y ≠ 0#32) {j : Nat} (hj : deg e.Y ≤ j) :
    (divrem e.X (e.Y.setWidth 33)).2.getLsbD j = false :=
  divrem_remainder_bits e.X (setWidth_33_ne_zero hy) (by rwa [deg_setWidth_33])

/-- R114 (b): the degree of `Y` falls. -/
theorem deg_euclidStep_Y_lt (hy : e.Y ≠ 0#32) : deg (euclidStep e).Y < deg e.Y := by
  obtain ⟨d, hd⟩ := exists_deg_eq hy
  rw [hd]
  refine deg_lt_of_bits fun i hi => ?_
  rw [euclidStep, BitVec.getLsbD_setWidth, euclid_remainder_bits hy (by omega), Bool.and_false]

/-- One iteration replaces `Y` by `X xor clmul(Q, Y)` (R114). -/
theorem toPoly_euclidStep_Y (hy : e.Y ≠ 0#32) :
    toPoly (euclidStep e).Y = toPoly e.X + toPoly e.quotient * toPoly e.Y := by
  have hword : ∀ j, 32 ≤ j → (divrem e.X (e.Y.setWidth 33)).2.getLsbD j = false := fun j hj => by
    obtain ⟨-, hwidth⟩ := deg_bounds e.Y
    exact euclid_remainder_bits hy (by omega)
  have hsum := toPoly_divrem e.X (setWidth_33_ne_zero hy)
  rw [toPoly_setWidth_of_le e.Y (by decide)] at hsum
  rw [euclidStep, toPoly_setWidth hword, ← hsum, Euclid.quotient, add_right_comm, CharTwo.add_self_eq_zero, zero_add]

/-- What every iteration keeps: R114 (a), and that the pair being divided has no common factor. -/
structure EuclidInvariant (v : Word) (e : Euclid) : Prop where
  coefficientX : residue e.A * residue v = residue e.X
  coefficientY : residue e.B * residue v = residue e.Y
  coprime : IsCoprime (toPoly e.X) (toPoly e.Y)

theorem euclidInvariant_start (hv : v ≠ 0#32) : EuclidInvariant v (euclidStart v) where
  coefficientX := by rw [euclidStart, residue_zero, residue_p33, zero_mul]
  coefficientY := by rw [euclidStart, residue_one (by decide), one_mul]
  coprime := isCoprime_p33 hv

theorem EuclidInvariant.step (h : EuclidInvariant v e) (hy : e.Y ≠ 0#32) : EuclidInvariant v (euclidStep e) where
  coefficientX := by rw [euclidStep_A, euclidStep_X, residue_setWidth_of_le e.Y (by decide), h.coefficientY]
  coefficientY := by
    have hrem : residue (euclidStep e).Y = residue e.X + residue e.quotient * residue e.Y := by
      rw [residue, toPoly_euclidStep_Y hy, map_add, map_mul]
      rfl
    rw [euclidStep_B, residue_xor, residue_mulmod, hrem]
    linear_combination h.coefficientX + residue e.quotient * h.coefficientY
  coprime := by
    rw [euclidStep_X, toPoly_setWidth_of_le e.Y (by decide), toPoly_euclidStep_Y hy]
    exact h.coprime.symm.add_mul_right_right _

/-- With more iterations left than the degree of `Y`, the loop ends at `Y = 0`. -/
theorem EuclidInvariant.loop (h : EuclidInvariant v e) {n : Nat} (hn : deg e.Y < n) :
    EuclidInvariant v (euclidLoop n e) ∧ (euclidLoop n e).Y = 0#32 := by
  induction n generalizing e with
  | zero =>
    have hzero : e.Y = 0#32 := by
      by_contra hy
      have hnonneg := deg_nonneg hy
      omega
    exact ⟨h, hzero⟩
  | succ n ih =>
    by_cases hy : e.Y = 0#32
    · rw [euclidLoop_done (n + 1) hy]
      exact ⟨h, hy⟩
    · rw [euclidLoop_more n hy]
      have hfall := deg_euclidStep_Y_lt hy
      exact ih (h.step hy) (by omega)

/-- A pair with no common factor and `Y = 0` has `X = 1`. -/
theorem EuclidInvariant.X_eq_one (h : EuclidInvariant v e) (hy : e.Y = 0#32) : e.X = 1#33 := by
  refine eq_one_of_isUnit_toPoly (by decide) (isCoprime_zero_right.1 ?_)
  rw [← toPoly_zero (w := 32), ← hy]
  exact h.coprime

end

/-! ## The inverse (R112) -/

theorem invmod_eq_none_iff (v : Word) : invmod v = none ↔ (euclidLoop 32 (euclidStart v)).X ≠ 1#33 := by
  simp [invmod]

theorem invmod_of_X_eq_one {v : Word} (h : (euclidLoop 32 (euclidStart v)).X = 1#33) :
    invmod v = some (euclidLoop 32 (euclidStart v)).A := by
  simp [invmod, h]

/-- The loop does not run, and leaves the generator. -/
@[simp] theorem invmod_zero : invmod 0#32 = none := by
  rw [invmod_eq_none_iff, euclidLoop_done 32 rfl]
  decide

/-- Every other word has its inverse. -/
theorem exists_invmod_eq_some {v : Word} (hv : v ≠ 0#32) : ∃ r, invmod v = some r ∧ mulmod r v = 1#32 := by
  obtain ⟨hinv, hend⟩ := (euclidInvariant_start hv).loop (n := 32) (deg_bounds v).2
  have hX := hinv.X_eq_one hend
  refine ⟨_, invmod_of_X_eq_one hX, residue_injective ?_⟩
  rw [residue_mulmod, hinv.coefficientX, hX, residue_one (by decide), residue_one (by decide)]

/-! ## The command -/

theorem exec_invmod_none {s : State} (hopen : s.err = 0#4) (h : invmod s.opa = none) :
    exec .invmod s = raiseFault .noinv s := by
  simp only [exec, execInvmod, unlessLocked_open hopen, h]

theorem exec_invmod_some {s : State} {r : Word} (hopen : s.err = 0#4) (h : invmod s.opa = some r) :
    exec .invmod s = complete (s.setRes0 r) := by
  simp only [exec, execInvmod, unlessLocked_open hopen, h]

theorem invmod_faults_on_zero : faultsWhen .invmod (fun s => s.opa = 0#32) 2#4 := fun _ hopen hzero =>
  exec_invmod_none hopen ((congrArg invmod hzero).trans invmod_zero)

/-- Settles O26: 0 is the operand whose loop does not run; for every other one x's powers reach it, so it has no factor
in common with the generator, the loop ends at X = 1, and the coefficient is the inverse. The examples are R113's. -/
theorem invmodFaultsExactlyOnZero : Obligations.InvmodFaultsExactlyOnZero := by
  unfold Obligations.InvmodFaultsExactlyOnZero
  refine ⟨rfl, refusedInLockout_of_ne_clrerr nofun, invmod_faults_on_zero, fun s hopen hopa => ?inverse,
    invmod_eq_none_iff, by decide, by decide, by decide, by decide, by decide⟩
  case inverse =>
    obtain ⟨r, hr, hone⟩ := exists_invmod_eq_some hopa
    exact ⟨r, hr, hone, exec_invmod_some hopen hr⟩

end Sys2Proof.Machine
end

-- ==== the control family: NOP and CLRERR ====
section
/-! Which events can write ERR, so which can leave lockout, and the settled statements about NOP and CLRERR. -/

namespace Sys2Proof.Machine

/-! ## The events that keep ERR (R28, R35) -/

section
variable {s t : State}

theorem readTransaction_err {off : BitVec 6} {size : AccessSize} (h : readTransaction off size s = .next t) :
    t.err = s.err := by
  obtain ⟨-, rfl⟩ | ⟨-, _, -, rfl⟩ := (readTransaction_next off size s t).1 h
  · exact State.setResponse_err s _
  · exact State.setResponse_err s _

/-- CMD is the only slot whose write can reach ERR. -/
theorem writeSlot_err {r : Slot} {d : Word} (hr : r ≠ .cmd) (h : writeSlot d s r = .next t) : t.err = s.err := by
  cases r with
  | cmd => exact absurd rfl hr
  | opa | opb | expl | exph => rw [(complete_next _ t).1 h]; rfl
  | status | res0 | res1 | crcstate | crcdigest => rw [(turnAway_next s t).1 h]; rfl

/-- A write keeps ERR, or it hands a command word to the block. -/
theorem writeTransaction_err_or_command {off : BitVec 6} {size : AccessSize} {d : Word}
    (h : writeTransaction off size d s = .next t) :
    t.err = s.err ∨ Event.bus (.wr off size d) = commandEvent d := by
  obtain ⟨-, rfl⟩ | ⟨hword, r, hslot, hwrite⟩ := (writeTransaction_next off size d s t).1 h
  · exact .inl (State.setResponse_err s _)
  · by_cases hr : r = .cmd
    · obtain ⟨rfl, -⟩ := (wholeWord_iff off size).1 hword
      rw [slotOffset_of_slotAt off r hslot, hr]
      exact .inr rfl
    · exact .inl (writeSlot_err hr hwrite)

/-- Every event but reset and a command word keeps ERR. -/
theorem handle_err_or_reset_or_command {e : Event} (h : handle e s = .next t) :
    t.err = s.err ∨ e = .reset ∨ ∃ w, e = commandEvent w := by
  match e with
  | .reset => exact .inr (.inl rfl)
  | .bus (.rd _ _) => exact .inl (readTransaction_err h)
  | .bus (.wr _ _ d) => exact (writeTransaction_err_or_command h).imp_right fun hcmd => .inr ⟨d, hcmd⟩

/-- R119: a locked block that comes to ERR = 0 was reset or given CLRERR's word. -/
theorem endsLockout_of_handle {e : Event} (hlock : s.err ≠ 0#4) (h : handle e s = .next t) (hopen : t.err = 0#4) :
    endsLockout e := by
  obtain hkept | hreset | ⟨w, rfl⟩ := handle_err_or_reset_or_command h
  · exact absurd (hkept.symm.trans hopen) hlock
  · exact .inl hreset
  · by_cases hw : w = encode .clrerr
    · exact .inr (congrArg commandEvent hw)
    · rw [handle_commandEvent, commandWrite_locked hw hlock] at h
      injection h with ht
      subst ht
      exact absurd hopen hlock

end

/-! ## The two commands -/

theorem completes_nop : completes .nop fun s => s := completes_of_exec_eq fun _ => rfl

theorem exec_clrerr (s : State) :
    exec .clrerr s = .next ((s.setErr 0#4).setResponse (writeResponse .okay)) := rfl

/-- STATUS shows ERR with zeros above it (R28). -/
theorem State.setErr_readSlot_status (s : State) (v : BitVec 4) :
    (s.setErr v).readSlot .status = some (v.setWidth 32) := rfl

/-- After CLRERR STATUS reads 0, whatever ERR was. -/
theorem handleAll_clrerr_then_status (s : State) :
    handleAll [commandEvent (encode .clrerr), .bus (.rd (slotOffset .status) .four)] s =
      .next ((s.setErr 0#4).setResponse (readResponse .okay 0#32)) := by
  have hclear := (handle_encode .clrerr s).trans (exec_clrerr s)
  have hstatus : ((s.setErr 0#4).setResponse (writeResponse .okay)).readSlot .status = some 0#32 := by
    rw [State.setResponse_readSlot, State.setErr_readSlot_status, BitVec.setWidth_zero]
  rw [handleAll_cons_next hclear, handleAll_cons_next (handle_read_slot hstatus), handleAll_nil]
  rfl

/-! ## The statements -/

/-- Settles O19: the effect is `exec_clrerr`, every other command is refused by `refusedInLockout_of_ne_clrerr`, and
`endsLockout_of_handle` says which events leave lockout. -/
theorem clrerrClearsErrOnly : Obligations.ClrerrClearsErrOnly := by
  unfold Obligations.ClrerrClearsErrOnly
  exact ⟨rfl, fun _ => refusedInLockout_of_ne_clrerr, fun _ _ _ => endsLockout_of_handle,
    fun s => ⟨exec_clrerr s, handleAll_clrerr_then_status s⟩⟩

/-- Settles O18: NOP tests lockout and then completes on the state as it is. -/
theorem nopChangesNothing : Obligations.NopChangesNothing := by
  unfold Obligations.NopChangesNothing
  exact ⟨rfl, completes_nop, refusedInLockout_of_ne_clrerr nofun⟩

end Sys2Proof.Machine
end

-- ==== the exceptions family: faults and lockout ====
section
/-! Which command words fault and with which code, how every other word that passes the lockout test ends, what a locked
block keeps, and the settled statements about the order of the checks, lockout and fault entry. -/

namespace Sys2Proof.Machine

/-! ## The causes of the faults (R131 to R133) -/

/-- The word `w`, written to CMD of `s`, is cause for the fault `c` where lockout does not refuse it. -/
inductive CausesFault (s : State) (w : Word) : FaultCode → Prop
  | div0 (hw : w = encode .divrem) (hopb : s.opb = 0#32) : CausesFault s w .div0
  | noinv (hw : w = encode .invmod) (hinv : invmod s.opa = none) : CausesFault s w .noinv
  | illcmd (hw : legalWord w = false) : CausesFault s w .illcmd

section
variable {s : State} {w : Word}

/-- A cause of a fault raises it out of lockout. -/
theorem CausesFault.commandWrite_open {c : FaultCode} (h : CausesFault s w c) (hopen : s.err = 0#4) :
    commandWrite w s = .next ((s.setErr (faultNumber c)).setResponse (writeResponse .error)) := by
  cases h with
  | div0 hw hopb =>
    rw [hw, commandWrite_decoded (decode_encode .divrem)]
    exact divrem_faults s hopen hopb
  | noinv hw hinv =>
    rw [hw, commandWrite_decoded (decode_encode .invmod)]
    exact exec_invmod_none hopen hinv
  | illcmd hw => exact commandWrite_illegal_open hw hopen

/-- Where the three tests of R136 find nothing, there is no cause. -/
theorem not_causesFault (hlegal : ¬ legalWord w = false) (hdivrem : ¬ (w = encode .divrem ∧ s.opb = 0#32))
    (hinvmod : ¬ (w = encode .invmod ∧ invmod s.opa = none)) (c : FaultCode) : ¬ CausesFault s w c := by
  rintro (⟨hw, hopb⟩ | ⟨hw, hinv⟩ | hw)
  · exact hdivrem ⟨hw, hopb⟩
  · exact hinvmod ⟨hw, hinv⟩
  · exact hlegal hw

/-- CLRERR never faults. -/
theorem CausesFault.ne_clrerr {c : FaultCode} (h : CausesFault s w c) : w ≠ 0x00000001#32 := by
  rintro rfl
  cases h with
  | div0 hw | noinv hw | illcmd hw => exact absurd hw (by decide)

theorem completes_mulmod : completes .mulmod fun s => s.setRes0 (mulmod s.opa s.opb) :=
  completes_of_exec_eq fun _ => rfl

theorem completes_crcload : completes .crcload fun s => s.setCrcstate (s.opa ^^^ Config.crcXorOut) :=
  completes_of_exec_eq fun _ => rfl

/-- Out of lockout a command without cause for a fault is answered OKAY, and ERR stays clear. -/
theorem exec_okay_of_no_cause {i : Instr} (hopen : s.err = 0#4) (hno : ∀ c, ¬ CausesFault s (encode i) c) :
    ∃ t, exec i s = .next t ∧ t.response = writeResponse .okay ∧ t.err = 0#4 := by
  cases i with
  | nop => exact ⟨_, completes_nop s hopen trivial, rfl, hopen⟩
  | clrerr => exact ⟨_, exec_clrerr s, rfl, rfl⟩
  | bitrev => exact ⟨_, completes_bitrev s hopen trivial, rfl, hopen⟩
  | deg => exact ⟨_, completes_deg s hopen trivial, rfl, hopen⟩
  | mulmod => exact ⟨_, completes_mulmod s hopen trivial, rfl, hopen⟩
  | powmod => exact ⟨_, completes_powmod s hopen trivial, rfl, hopen⟩
  | divrem => exact ⟨_, divrem_completes s hopen fun hopb => hno _ (.div0 rfl hopb), rfl, hopen⟩
  | invmod =>
    obtain ⟨r, hr⟩ := Option.ne_none_iff_exists'.1 fun hinv => hno _ (.noinv rfl hinv)
    exact ⟨_, exec_invmod_some hopen hr, rfl, hopen⟩
  | crcinit => exact ⟨_, completes_crcinit s hopen trivial, rfl, hopen⟩
  | crcb imm8 => exact ⟨_, completes_crcb imm8 s hopen trivial, rfl, hopen⟩
  | crcload => exact ⟨_, completes_crcload s hopen trivial, rfl, hopen⟩

/-! ## A word that passes the lockout test (R136) -/

/-- R136: past lockout the cause of a fault decides the outcome. -/
theorem CausesFault.commandWrite_past_lockout {c : FaultCode} (h : CausesFault s w c)
    (hpass : s.err = 0#4 ∨ w = 0x00000001#32) :
    commandWrite w s = .next ((s.setErr (faultNumber c)).setResponse (writeResponse .error)) :=
  h.commandWrite_open (hpass.resolve_right h.ne_clrerr)

/-- R136: past every check the word is answered OKAY, and leaves ERR clear. -/
theorem commandWrite_okay (hpass : s.err = 0#4 ∨ w = 0x00000001#32) (hno : ∀ c, ¬ CausesFault s w c) :
    ∃ t, commandWrite w s = .next t ∧ t.response = writeResponse .okay ∧ t.err = 0#4 := by
  rcases hpass with hopen | rfl
  · have hlegal : legalWord w = true := by
      by_contra hw
      exact hno _ (.illcmd (Bool.eq_false_iff.2 hw))
    obtain ⟨i, hi⟩ := (decode_ok_iff_legalWord w).2 hlegal
    rw [← encode_of_decode hi] at hno
    rw [commandWrite_decoded hi]
    exact exec_okay_of_no_cause hopen hno
  · exact ⟨_, commandWrite_clrerr s, rfl, rfl⟩

/-- R137: a command word that brings the block from ERR = 0 to a fault has a cause for it, and does no more than fault
entry. -/
theorem exists_cause_of_fault {t : State} (hopen : s.err = 0#4) (h : commandWrite w s = .next t)
    (hfault : t.err ≠ 0#4) :
    ∃ c, CausesFault s w c ∧ t = (s.setErr (faultNumber c)).setResponse (writeResponse .error) := by
  by_cases hcause : ∃ c, CausesFault s w c
  · obtain ⟨c, hc⟩ := hcause
    rw [hc.commandWrite_open hopen] at h
    injection h with ht
    exact ⟨c, hc, ht.symm⟩
  · obtain ⟨u, hu, -, herr⟩ := commandWrite_okay (.inl hopen) (not_exists.1 hcause)
    rw [hu] at h
    injection h with ht
    exact absurd (ht ▸ herr) hfault

end

/-! ## The checks before lockout (R136) -/

/-- An access that passes R43's check is a whole aligned word. -/
theorem aligned_word_of_not {off : BitVec 6} {size : AccessSize} (h : ¬ (size ≠ .four ∨ off.toNat % 4 ≠ 0)) :
    size = .four ∧ off.toNat % 4 = 0 := by
  simpa using h

/-- An aligned offset that is neither CMD's nor an operand's is one R44 forbids to write. -/
theorem not_writable {off : BitVec 6} (halign : off.toNat % 4 = 0)
    (hmap : off.toNat ∉ [0x00, 0x08, 0x0C, 0x10, 0x14]) :
    off.toNat = 0x04 ∨ off.toNat = 0x18 ∨ off.toNat = 0x1C ∨ off.toNat = 0x20 ∨ off.toNat = 0x24 ∨
      0x28 ≤ off.toNat := by
  simp only [List.mem_cons, List.not_mem_nil, or_false, not_or] at hmap
  omega

/-! ## Operand writes, in lockout or not (R46) -/

/-- A write to an operand slot is done, keeps ERR, and the slot then reads the word written. -/
theorem writeSlot_operand {r : Slot} (hr : r ∈ [Slot.opa, .opb, .expl, .exph]) (d : Word) (s : State) :
    ∃ t, writeSlot d s r = .next t ∧ t.response = writeResponse .okay ∧ t.err = s.err ∧ t.readSlot r = some d := by
  simp only [List.mem_cons, List.not_mem_nil, or_false] at hr
  rcases hr with rfl | rfl | rfl | rfl
  all_goals exact ⟨_, rfl, rfl, rfl, rfl⟩

theorem mem_operand_offsets : ∀ off : BitVec 6, off.toNat ∈ [0x00, 0x08, 0x0C, 0x10, 0x14] → off.toNat ≠ 0x00 →
    off ∈ [0x08#6, 0x0C#6, 0x10#6, 0x14#6] := by decide

/-- The four offsets of the operand slots (R41). -/
theorem exists_operand_slot {off : BitVec 6} (h : off ∈ [0x08#6, 0x0C#6, 0x10#6, 0x14#6]) :
    ∃ r ∈ [Slot.opa, .opb, .expl, .exph], slotOffset r = off :=
  List.mem_map.1 (show off ∈ [Slot.opa, .opb, .expl, .exph].map slotOffset from h)

/-! ## What a locked block keeps (R135) -/

/-- In lockout the code stays through every event but CLRERR and reset. -/
theorem handle_err_of_locked {e : Event} {s t : State} (hlock : s.err ≠ 0#4) (he : ¬ endsLockout e)
    (h : handle e s = .next t) : t.err = s.err := by
  obtain hkept | hreset | ⟨w, rfl⟩ := handle_err_or_reset_or_command h
  · exact hkept
  · exact absurd (.inl hreset) he
  · have hw : w ≠ 0x00000001#32 := fun hw => he (.inr (congrArg commandEvent hw))
    rw [handle_commandEvent, commandWrite_locked hw hlock] at h
    injection h with ht
    rw [← ht, State.setResponse_err]

/-- CLRERR and reset clear ERR. -/
theorem handle_err_of_endsLockout {e : Event} {s t : State} (he : endsLockout e) (h : handle e s = .next t) :
    t.err = 0#4 := by
  rcases he with rfl | rfl
  · injection h with ht
    rw [← ht]
    rfl
  · rw [handle_encode, exec_clrerr] at h
    injection h with ht
    rw [← ht]
    rfl

/-! ## Reads (R136) -/

/-- An aligned offset outside CMD and the reserved ones is a slot that can be read. -/
theorem exists_readSlot {off : BitVec 6} (s : State) (halign : off.toNat % 4 = 0)
    (hmap : ¬ (off.toNat = 0x00 ∨ 0x28 ≤ off.toNat)) : ∃ r v, slotOffset r = off ∧ s.readSlot r = some v := by
  have hslot : ∀ off : BitVec 6, off.toNat % 4 = 0 → ¬ (off.toNat = 0x00 ∨ 0x28 ≤ off.toNat) →
      ∃ r ∈ slotAt off, r ≠ Slot.cmd := by decide
  obtain ⟨r, hr, hcmd⟩ := hslot off halign hmap
  obtain ⟨v, hv⟩ : ∃ v, s.readSlot r = some v := by
    cases r with
    | cmd => exact absurd rfl hcmd
    | _ => exact ⟨_, rfl⟩
  exact ⟨r, v, (slotOffset_of_slotAt off r hr).symm, hv⟩

/-! ## The statements -/

/-- Settles O31: commands by `commandWrite_locked`, operand writes and their reading back by `writeSlot_operand`, and
which events end lockout by `handle_err_of_endsLockout` and `handle_err_of_locked`. -/
theorem lockoutRefusesAllButClrerr : Obligations.LockoutRefusesAllButClrerr := by
  unfold Obligations.LockoutRefusesAllButClrerr
  intro s es hlock
  refine ⟨fun w hw => ?command, fun r v hv => ?read, fun off d hoff => ?operand, fun e t ht => ?leave⟩
  case command => exact (step_commandEvent rfl).trans (commandWrite_locked (s := s.setPending es) hw hlock)
  case read => exact (step_bus s _ es).trans (handle_read_slot ((State.setPending_readSlot s es r).trans hv))
  case operand =>
    obtain ⟨r, hr, rfl⟩ := exists_operand_slot hoff
    obtain ⟨t, ht, hokay, herr, hread⟩ := writeSlot_operand hr d (s.setPending es)
    exact ⟨t, (step_write_slot s es r d).trans ht, ⟨none, hokay⟩, herr, handleAll_cons_next (handle_read_slot hread) []⟩
  case leave =>
    rw [step_event (s := { s with pending := e :: es }) rfl] at ht
    refine ⟨⟨endsLockout_of_handle (s := s.setPending es) hlock ht, fun he => handle_err_of_endsLockout he ht⟩,
      fun hreset hclrerr => ?_⟩
    exact handle_err_of_locked (s := s.setPending es) hlock (not_or.2 ⟨hreset, hclrerr⟩) ht

/-- Settles O32: only a command word can write a code, and it has a cause for it by `exists_cause_of_fault`. -/
theorem faultEntryWritesErrOnly : Obligations.FaultEntryWritesErrOnly := by
  unfold Obligations.FaultEntryWritesErrOnly
  refine ⟨fun s t hopen hstep hfault => ?entry, fun t => ?status⟩
  case entry =>
    cases hp : s.pending with
    | nil =>
      rw [step_idle hp] at hstep
      injection hstep with ht
      exact absurd (ht ▸ hopen) hfault
    | cons e es =>
      rw [step_event hp] at hstep
      obtain hkept | rfl | ⟨w, rfl⟩ := handle_err_or_reset_or_command hstep
      · exact absurd (hkept.trans hopen) hfault
      · exact absurd (handle_err_of_endsLockout (.inl rfl) hstep) hfault
      · rw [handle_commandEvent] at hstep
        obtain ⟨c, hc, rfl⟩ := exists_cause_of_fault (s := s.setPending es) hopen hstep hfault
        refine ⟨w, es, rfl, rfl, ?_⟩
        cases hc with
        | div0 hw hopb => exact .inl ⟨rfl, hw, hopb⟩
        | noinv hw hinv => exact .inr (.inl ⟨rfl, hw, hinv⟩)
        | illcmd hw => exact .inr (.inr ⟨rfl, hw⟩)
  case status => exact handleAll_cons_next (handle_read_slot (r := .status) rfl) []

/-- Settles O17: the checks are split in R136's order; each outcome is the lemma about the first check that fails. -/
theorem checksInFixedOrder : Obligations.ChecksInFixedOrder := by
  unfold Obligations.ChecksInFixedOrder
  constructor
  case left =>
    intro s es off size d turned
    by_cases hsize : size ≠ .four ∨ off.toNat % 4 ≠ 0
    · simp only [if_pos hsize]
      exact ⟨_, (step_bus s _ es).trans (writeTransaction_refused d (.inl (wholeWord_eq_false hsize))), rfl⟩
    simp only [if_neg hsize]
    obtain ⟨rfl, halign⟩ := aligned_word_of_not hsize
    by_cases hmap : off.toNat ∉ [0x00, 0x08, 0x0C, 0x10, 0x14]
    · simp only [if_pos hmap]
      exact ⟨_, (step_bus s _ es).trans (writeTransaction_forbidden d _ (not_writable halign hmap)), rfl⟩
    simp only [if_neg hmap]
    by_cases hcmd : off.toNat = 0x00
    · obtain rfl : off = slotOffset .cmd := BitVec.eq_of_toNat_eq hcmd
      simp only [if_pos hcmd, step_write_slot, writeSlot]
      split_ifs with hlock hillegal hdiv0 hnoinv
      · exact ⟨_, commandWrite_locked (s := s.setPending es) hlock.2 hlock.1, rfl⟩
      · exact ⟨_, CausesFault.commandWrite_past_lockout (.illcmd hillegal) (or_iff_not_and_not.2 hlock), rfl⟩
      · exact ⟨_, CausesFault.commandWrite_past_lockout (.div0 hdiv0.1 hdiv0.2) (or_iff_not_and_not.2 hlock), rfl⟩
      · exact ⟨_, CausesFault.commandWrite_past_lockout (.noinv hnoinv.1 hnoinv.2) (or_iff_not_and_not.2 hlock), rfl⟩
      · exact commandWrite_okay (s := s.setPending es) (or_iff_not_and_not.2 hlock)
          (not_causesFault hillegal hdiv0 hnoinv)
    · simp only [if_neg hcmd]
      obtain ⟨r, hr, rfl⟩ := exists_operand_slot (mem_operand_offsets off (not_not.1 hmap) hcmd)
      obtain ⟨t, ht, hokay, herr, -⟩ := writeSlot_operand hr d (s.setPending es)
      exact ⟨t, (step_write_slot s es r d).trans ht, hokay, herr⟩
  case right =>
    intro s es off size turned
    split_ifs with hsize hmap
    · exact ⟨_, (step_bus s _ es).trans (readTransaction_refused (.inl (wholeWord_eq_false hsize))), rfl⟩
    · exact ⟨_, (step_bus s _ es).trans (readTransaction_refused (.inr (readSlot_forbidden _ hmap))), rfl⟩
    · obtain ⟨rfl, halign⟩ := aligned_word_of_not hsize
      obtain ⟨r, v, rfl, hv⟩ := exists_readSlot (s.setPending es) halign hmap
      exact ⟨_, (step_bus s _ es).trans (handle_read_slot hv), v, rfl⟩

end Sys2Proof.Machine
end

-- ==== the other family: the opcode map ====
section
/-! A word selects the row it decodes to, and the settled statements about the decoder and the encoder. -/

namespace Sys2Proof

/-- R63: the word of an instruction lies in the instruction's own row. -/
theorem selectsRow_encode (i : Instr) : selectsRow (encode i) i := by
  cases i with
  | nop => exact Laws.EncodesOwnRow.nop.1
  | clrerr => exact Laws.EncodesOwnRow.clrerr.1
  | bitrev => exact Laws.EncodesOwnRow.bitrev.1
  | deg => exact Laws.EncodesOwnRow.deg.1
  | mulmod => exact Laws.EncodesOwnRow.mulmod.1
  | powmod => exact Laws.EncodesOwnRow.powmod.1
  | divrem => exact Laws.EncodesOwnRow.divrem.1
  | invmod => exact Laws.EncodesOwnRow.invmod.1
  | crcinit => exact Laws.EncodesOwnRow.crcinit.1
  | crcb imm8 => exact (Laws.EncodesOwnRow.crcb imm8).1
  | crcload => exact Laws.EncodesOwnRow.crcload.1

/-- Only the row of an instruction matters to what selects it. -/
theorem selectsRow_congr {i j : Instr} (h : opcodeRow j = opcodeRow i) {w : Word} (hw : selectsRow w j) :
    selectsRow w i := by
  rw [selectsRow, ← h]
  exact hw

/-- A row whose mask covers the whole word has one word. -/
theorem eq_encode_of_selectsRow {w : Word} {i : Instr} (hrow : opcodeRow i = (encode i, 0xFFFFFFFF#32))
    (h : selectsRow w i) : w = encode i := by
  have hones : (0xFFFFFFFF#32 : Word) = BitVec.allOnes 32 := by decide
  rwa [selectsRow, hrow, hones, BitVec.and_allOnes] at h

/-- The mask of CRCB's row leaves the immediate open and fixes the two other fields. -/
theorem decode_of_selectsRow_crcb {w : Word} {b : Byte} (h : selectsRow w (.crcb b)) :
    decode w = .ok (.crcb (immField w)) := by
  have hmask : w &&& 0xFFFF00FF#32 = 0x00000031#32 := h
  have hzero : zeroField w &&& 0xFFFF#16 = 0#16 := by
    have hfield := congrArg zeroField hmask
    rwa [zeroField, BitVec.extractLsb'_and] at hfield
  have hopcode : opcodeField w &&& 0xFF#8 = 0x31#8 := by
    have hfield := congrArg opcodeField hmask
    rwa [opcodeField, BitVec.extractLsb'_and] at hfield
  have hhigh : (0xFFFF#16) = BitVec.allOnes 16 := by decide
  have hlow : (0xFF#8) = BitVec.allOnes 8 := by decide
  rw [hhigh, BitVec.and_allOnes] at hzero
  rw [hlow, BitVec.and_allOnes] at hopcode
  exact (decode_eq_ok_iff w _).2 ⟨hzero, .inl ⟨hopcode, rfl⟩⟩

/-- R63: a word that selects the row of `i` decodes to an instruction of that row. -/
theorem decode_of_selectsRow {w : Word} {i : Instr} (h : selectsRow w i) :
    ∃ j, decode w = .ok j ∧ opcodeRow j = opcodeRow i := by
  cases i with
  | crcb b => exact ⟨_, decode_of_selectsRow_crcb h, rfl⟩
  | _ =>
    obtain rfl := eq_encode_of_selectsRow rfl h
    exact ⟨_, decode_encode _, rfl⟩

/-- R62: the immediate field of CRCB's word is its byte. -/
theorem immField_encode_crcb : ∀ b : Byte, immField (encode (.crcb b)) = b := by decide

/-- The word of CRCB as a number (R60, R62). -/
theorem encode_crcb_eq_ofNat : ∀ b : Byte, encode (.crcb b) = BitVec.ofNat 32 (b.toNat * 256 + 0x31) := by decide

/-! ## The statements -/

/-- Settles O1: the two directions are `decode_encode` and `encode_of_decode`. -/
theorem decodeEncodeAgree : Obligations.DecodeEncodeAgree := by
  unfold Obligations.DecodeEncodeAgree
  exact ⟨fun i _ => decode_encode i, fun _ _ => encode_of_decode⟩

/-- Settles O3: a selected word decodes in its row by the masks, and a word that decodes is its instruction's own word,
which lies in the row. -/
theorem wordsDecodeByTheirRow : Obligations.WordsDecodeByTheirRow := by
  unfold Obligations.WordsDecodeByTheirRow
  refine fun w i => ⟨decode_of_selectsRow, ?_⟩
  rintro ⟨j, hj, hrow⟩
  rw [← encode_of_decode hj]
  exact selectsRow_congr hrow (selectsRow_encode j)

/-- Settles O4: each word is the encoding of the command it stands for. -/
theorem specWordsDecode : Obligations.SpecWordsDecode := by
  unfold Obligations.SpecWordsDecode
  exact ⟨decode_encode .clrerr, decode_encode .deg, decode_encode .divrem, decode_encode (.crcb 0x67#8),
    decode_encode .crcload⟩

/-- Settles O5: a word that decodes to CRCB is CRCB's word, whose immediate field is the byte; the exponent is the
concatenation of its halves. -/
theorem immediateAndExponentAssembly : Obligations.ImmediateAndExponentAssembly := by
  unfold Obligations.ImmediateAndExponentAssembly
  refine ⟨fun w b hdecode => ?immediate, fun b => ?word, fun s => ?exponent⟩
  case immediate =>
    rw [← encode_of_decode hdecode, ← immField_toNat, immField_encode_crcb]
  case word =>
    rw [← encode_crcb_eq_ofNat]
    exact decode_encode (.crcb b)
  case exponent =>
    rw [Machine.State.exponent, BitVec.toNat_append, ← Nat.shiftLeft_add_eq_or_of_lt s.expl.isLt, Nat.shiftLeft_eq]

end Sys2Proof
end

-- ==== the other family: what an event does ====
section
/-! Everything one event can do to the block, said once; the invariants of runs follow from it case by case. -/

namespace Sys2Proof.Machine

/-! ## The effect of an event (R35, R49) -/

/-- `t` is what the event leaves of `s`: the block after reset, a read's answer, a refusal, an operand written, a fault
entered out of lockout, or the effect of one command. -/
inductive EventEffect (s : State) : Event → State → Prop where
  | reset : EventEffect s .reset (resetBlock s)
  | read (off : BitVec 6) (size : AccessSize) (r : Option Response) :
      EventEffect s (.bus (.rd off size)) (s.setResponse r)
  | refused (a : Transaction) : EventEffect s (.bus a) (s.setResponse (writeResponse .error))
  | opa (v : Word) : EventEffect s (.bus (.wr 0x08#6 .four v)) ((s.setOpa v).setResponse (writeResponse .okay))
  | opb (v : Word) : EventEffect s (.bus (.wr 0x0C#6 .four v)) ((s.setOpb v).setResponse (writeResponse .okay))
  | expl (v : Word) : EventEffect s (.bus (.wr 0x10#6 .four v)) ((s.setExpl v).setResponse (writeResponse .okay))
  | exph (v : Word) : EventEffect s (.bus (.wr 0x14#6 .four v)) ((s.setExph v).setResponse (writeResponse .okay))
  | fault (w : Word) (c : FaultCode) (hopen : s.err = 0#4) :
      EventEffect s (commandEvent w) ((s.setErr (faultNumber c)).setResponse (writeResponse .error))
  | clrerr : EventEffect s (commandEvent (encode .clrerr)) ((s.setErr 0#4).setResponse (writeResponse .okay))
  | nop : EventEffect s (commandEvent (encode .nop)) (s.setResponse (writeResponse .okay))
  | arithmetic (i : Instr) (v : Word) (hopen : s.err = 0#4)
      (hi : i ∈ [Instr.bitrev, .deg, .mulmod, .powmod, .invmod]) :
      EventEffect s (commandEvent (encode i)) ((s.setRes0 v).setResponse (writeResponse .okay))
  | divrem (q r : Word) (hopen : s.err = 0#4) (hopb : s.opb ≠ 0#32) :
      EventEffect s (commandEvent (encode .divrem)) (((s.setRes0 q).setRes1 r).setResponse (writeResponse .okay))
  | crcinit (hopen : s.err = 0#4) :
      EventEffect s (commandEvent (encode .crcinit)) ((s.setCrcstate Config.crcInit).setResponse (writeResponse .okay))
  | crcb (b : Byte) (hopen : s.err = 0#4) :
      EventEffect s (commandEvent (encode (.crcb b)))
        ((s.setCrcstate (crcStep s.crcstate b)).setResponse (writeResponse .okay))
  | crcload (hopen : s.err = 0#4) :
      EventEffect s (commandEvent (encode .crcload))
        ((s.setCrcstate (s.opa ^^^ Config.crcXorOut)).setResponse (writeResponse .okay))

section
variable {s t : State}

/-- The next state of a result that is known to be one. -/
theorem eq_of_next {r : Result} {u : State} (hu : r = .next u) (ht : r = .next t) : t = u := by
  rw [hu] at ht
  injection ht with h
  exact h.symm

/-- A command out of lockout: CLRERR, a completion or a fault. -/
theorem exec_effect_open {i : Instr} (hopen : s.err = 0#4) (h : exec i s = .next t) :
    EventEffect s (commandEvent (encode i)) t := by
  cases i with
  | nop =>
    obtain rfl := eq_of_next (completes_nop s hopen trivial) h
    exact .nop
  | clrerr =>
    obtain rfl := eq_of_next (exec_clrerr s) h
    exact .clrerr
  | bitrev =>
    obtain rfl := eq_of_next (completes_bitrev s hopen trivial) h
    exact .arithmetic .bitrev _ hopen (by decide)
  | deg =>
    obtain rfl := eq_of_next (completes_deg s hopen trivial) h
    exact .arithmetic .deg _ hopen (by decide)
  | mulmod =>
    obtain rfl := eq_of_next (completes_mulmod s hopen trivial) h
    exact .arithmetic .mulmod _ hopen (by decide)
  | powmod =>
    obtain rfl := eq_of_next (completes_powmod s hopen trivial) h
    exact .arithmetic .powmod _ hopen (by decide)
  | divrem =>
    by_cases hopb : s.opb = 0#32
    · obtain rfl := eq_of_next (divrem_faults s hopen hopb) h
      exact .fault _ .div0 hopen
    · obtain rfl := eq_of_next (divrem_completes s hopen hopb) h
      exact .divrem _ _ hopen hopb
  | invmod =>
    cases hinv : invmod s.opa with
    | none =>
      obtain rfl := eq_of_next (exec_invmod_none hopen hinv) h
      exact .fault _ .noinv hopen
    | some r =>
      obtain rfl := eq_of_next (exec_invmod_some hopen hinv) h
      exact .arithmetic .invmod _ hopen (by decide)
  | crcinit =>
    obtain rfl := eq_of_next (completes_crcinit s hopen trivial) h
    exact .crcinit hopen
  | crcb b =>
    obtain rfl := eq_of_next (completes_crcb b s hopen trivial) h
    exact .crcb b hopen
  | crcload =>
    obtain rfl := eq_of_next (completes_crcload s hopen trivial) h
    exact .crcload hopen

/-- A command word: refused in lockout but for CLRERR's, else the command or the fault of an illegal word. -/
theorem commandWrite_effect {w : Word} (h : commandWrite w s = .next t) : EventEffect s (commandEvent w) t := by
  by_cases hopen : s.err = 0#4
  · cases hd : decode w with
    | ok i =>
      rw [commandWrite_decoded hd] at h
      rw [← encode_of_decode hd]
      exact exec_effect_open hopen h
    | error r =>
      rw [commandWrite_illegal hd, illegalCommand, unlessLocked_open hopen] at h
      obtain rfl := (raiseFault_next .illcmd s t).1 h
      exact .fault w .illcmd hopen
  · by_cases hw : w = 0x00000001#32
    · subst hw
      obtain rfl := eq_of_next (commandWrite_clrerr s) h
      exact .clrerr
    · obtain rfl := eq_of_next (commandWrite_locked hw hopen) h
      exact .refused _

/-- A write to a named slot. -/
theorem writeSlot_effect {r : Slot} {d : Word} (h : writeSlot d s r = .next t) :
    EventEffect s (.bus (.wr (slotOffset r) .four d)) t := by
  cases r with
  | cmd => exact commandWrite_effect h
  | opa => obtain rfl := (complete_next _ t).1 h; exact .opa d
  | opb => obtain rfl := (complete_next _ t).1 h; exact .opb d
  | expl => obtain rfl := (complete_next _ t).1 h; exact .expl d
  | exph => obtain rfl := (complete_next _ t).1 h; exact .exph d
  | status | res0 | res1 | crcstate | crcdigest => obtain rfl := (turnAway_next s t).1 h; exact .refused _

/-- What an event leaves is one of its effects. -/
theorem handle_effect {e : Event} (h : handle e s = .next t) : EventEffect s e t := by
  match e with
  | .reset =>
    obtain rfl := eq_of_next rfl h
    exact .reset
  | .bus (.rd off size) =>
    obtain ⟨-, rfl⟩ | ⟨-, v, -, rfl⟩ := (readTransaction_next off size s t).1 h
    · exact .read off size _
    · exact .read off size _
  | .bus (.wr off size d) =>
    obtain ⟨-, rfl⟩ | ⟨hword, r, hslot, hwrite⟩ := (writeTransaction_next off size d s t).1 h
    · exact .refused _
    · obtain ⟨rfl, -⟩ := (wholeWord_iff off size).1 hword
      rw [slotOffset_of_slotAt off r hslot]
      exact writeSlot_effect hwrite

/-- A step is idle, or the effect of the oldest event. -/
theorem step_effect (h : step s = .next t) :
    t = s ∨ ∃ e es, s.pending = e :: es ∧ EventEffect (s.setPending es) e t := by
  cases hp : s.pending with
  | nil => exact .inl (eq_of_next (step_idle hp) h)
  | cons e es =>
    rw [step_event hp] at h
    exact .inr ⟨e, es, rfl, handle_effect h⟩

/-! ## What every event keeps -/

/-- The host's later events are no event's to change (R52). -/
theorem EventEffect.pending_eq {e : Event} (h : EventEffect s e t) : t.pending = s.pending := by
  cases h <;> rfl

/-- No event records a code above 3 (R130). -/
theorem EventEffect.errLegal {e : Event} (h : EventEffect s e t) (hs : s.errLegal) : t.errLegal := by
  cases h with
  | reset | clrerr => exact Nat.zero_le 3
  | fault _ c _ => exact (faultNumber_legal c).1
  | read | refused | opa | opb | expl | exph | nop | arithmetic | divrem | crcinit | crcb | crcload => exact hs

/-- A locked block keeps its code, its results and its digest through every event but CLRERR and reset (R135). -/
theorem EventEffect.locked_keeps {e : Event} (h : EventEffect s e t) (hlock : s.err ≠ 0#4) (he : ¬ endsLockout e) :
    t.err = s.err ∧ t.res0 = s.res0 ∧ t.res1 = s.res1 ∧ t.crcstate = s.crcstate := by
  cases h with
  | reset => exact absurd (.inl rfl) he
  | clrerr => exact absurd (.inr rfl) he
  | fault _ _ hopen | arithmetic _ _ hopen | divrem _ _ hopen | crcinit hopen | crcb _ hopen | crcload hopen =>
    exact absurd hopen hlock
  | read | refused | opa | opb | expl | exph | nop => exact ⟨rfl, rfl, rfl, rfl⟩

/-! ## The events that change a register (R35) -/

theorem EventEffect.opa_changed {e : Event} (h : EventEffect s e t) (hne : t.opa ≠ s.opa) :
    e = .reset ∨ ∃ v, e = .bus (.wr 0x08#6 .four v) ∧ t.opa = v := by
  cases h with
  | reset => exact .inl rfl
  | opa v => exact .inr ⟨v, rfl, rfl⟩
  | _ => exact absurd rfl hne

theorem EventEffect.opb_changed {e : Event} (h : EventEffect s e t) (hne : t.opb ≠ s.opb) :
    e = .reset ∨ ∃ v, e = .bus (.wr 0x0C#6 .four v) ∧ t.opb = v := by
  cases h with
  | reset => exact .inl rfl
  | opb v => exact .inr ⟨v, rfl, rfl⟩
  | _ => exact absurd rfl hne

theorem EventEffect.expl_changed {e : Event} (h : EventEffect s e t) (hne : t.expl ≠ s.expl) :
    e = .reset ∨ ∃ v, e = .bus (.wr 0x10#6 .four v) ∧ t.expl = v := by
  cases h with
  | reset => exact .inl rfl
  | expl v => exact .inr ⟨v, rfl, rfl⟩
  | _ => exact absurd rfl hne

theorem EventEffect.exph_changed {e : Event} (h : EventEffect s e t) (hne : t.exph ≠ s.exph) :
    e = .reset ∨ ∃ v, e = .bus (.wr 0x14#6 .four v) ∧ t.exph = v := by
  cases h with
  | reset => exact .inl rfl
  | exph v => exact .inr ⟨v, rfl, rfl⟩
  | _ => exact absurd rfl hne

theorem EventEffect.res0_changed {e : Event} (h : EventEffect s e t) (hne : t.res0 ≠ s.res0) :
    e = .reset ∨ (s.err = 0#4 ∧
      ∃ i, i ∈ [Instr.bitrev, .deg, .mulmod, .powmod, .divrem, .invmod] ∧ e = commandEvent (encode i)) := by
  cases h with
  | reset => exact .inl rfl
  | arithmetic i v hopen hi =>
    have hsix : [Instr.bitrev, .deg, .mulmod, .powmod, .invmod] ⊆
        [Instr.bitrev, .deg, .mulmod, .powmod, .divrem, .invmod] := by decide
    exact .inr ⟨hopen, i, hsix hi, rfl⟩
  | divrem q r hopen => exact .inr ⟨hopen, .divrem, by decide, rfl⟩
  | _ => exact absurd rfl hne

theorem EventEffect.res1_changed {e : Event} (h : EventEffect s e t) (hne : t.res1 ≠ s.res1) :
    e = .reset ∨ (s.err = 0#4 ∧ s.opb ≠ 0#32 ∧ e = commandEvent (encode .divrem)) := by
  cases h with
  | reset => exact .inl rfl
  | divrem q r hopen hopb => exact .inr ⟨hopen, hopb, rfl⟩
  | _ => exact absurd rfl hne

theorem EventEffect.crcstate_changed {e : Event} (h : EventEffect s e t) (hne : t.crcstate ≠ s.crcstate) :
    e = .reset ∨ (s.err = 0#4 ∧ (e = commandEvent (encode .crcinit) ∨ e = commandEvent (encode .crcload) ∨
      ∃ b, e = commandEvent (encode (.crcb b)))) := by
  cases h with
  | reset => exact .inl rfl
  | crcinit hopen => exact .inr ⟨hopen, .inl rfl⟩
  | crcload hopen => exact .inr ⟨hopen, .inr (.inl rfl)⟩
  | crcb b hopen => exact .inr ⟨hopen, .inr (.inr ⟨b, rfl⟩)⟩
  | _ => exact absurd rfl hne

theorem EventEffect.err_changed {e : Event} (h : EventEffect s e t) (hne : t.err ≠ s.err) :
    endsLockout e ∨ (s.err = 0#4 ∧ ∃ w, e = commandEvent w) := by
  cases h with
  | reset => exact .inl (.inl rfl)
  | clrerr => exact .inl (.inr rfl)
  | fault w c hopen => exact .inr ⟨hopen, w, rfl⟩
  | _ => exact absurd rfl hne

/-! ## Runs -/

/-- The first event of a run that ends, and the rest of it. -/
theorem handleAll_cons_eq_next {e : Event} {es : List Event} (h : handleAll (e :: es) s = .next t) :
    ∃ u, handle e s = .next u ∧ handleAll es u = .next t := by
  unfold handleAll at h
  split at h
  · rename_i u hu
    exact ⟨u, hu, h⟩
  · cases h
  · cases h

end

/-! ## The statements -/

/-- Settles O33: by induction on the events, each of which keeps what `EventEffect.locked_keeps` says. -/
theorem firstFaultCodeIsKept : Obligations.FirstFaultCodeIsKept := by
  unfold Obligations.FirstFaultCodeIsKept
  intro es
  induction es with
  | nil =>
    intro s t _ _ h
    obtain rfl := eq_of_next (handleAll_nil s) h
    exact ⟨rfl, rfl, rfl, rfl⟩
  | cons e es ih =>
    intro s t hlock hes h
    obtain ⟨u, hu, hrest⟩ := handleAll_cons_eq_next h
    obtain ⟨herr, hres0, hres1, hcrc⟩ := (handle_effect hu).locked_keeps hlock (hes e List.mem_cons_self)
    obtain ⟨herr', hres0', hres1', hcrc'⟩ :=
      ih u t (herr ▸ hlock) (fun e' he' => hes e' (List.mem_cons_of_mem e he')) hrest
    exact ⟨herr'.trans herr, hres0'.trans hres0, hres1'.trans hres1, hcrc'.trans hcrc⟩

/-- Settles O34: an idle step changes nothing, and an event keeps ERR legal by `EventEffect.errLegal`. -/
theorem stepKeepsErrLegal : Obligations.StepKeepsErrLegal := by
  unfold Obligations.StepKeepsErrLegal
  intro s t hs h
  obtain rfl | ⟨e, es, -, heffect⟩ := step_effect h
  · exact hs
  · exact heffect.errLegal hs

/-- Settles O37: register by register, the effects that write it. -/
theorem onlyNamedStepsWriteEachRegister : Obligations.OnlyNamedStepsWriteEachRegister := by
  unfold Obligations.OnlyNamedStepsWriteEachRegister
  intro s t e es hp h
  rw [step_event hp] at h
  have heffect := handle_effect h
  exact ⟨heffect.pending_eq, heffect.opa_changed, heffect.opb_changed, heffect.expl_changed, heffect.exph_changed,
    heffect.res0_changed, heffect.res1_changed, heffect.crcstate_changed, heffect.err_changed⟩

/-- Settles O35: ERR is 0 at reset. -/
theorem resetErrLegal : Obligations.ResetErrLegal := by
  unfold Obligations.ResetErrLegal
  exact Nat.zero_le 3

/-- R130 over any run: the host's choices reach no code above 3. -/
theorem Reachable.errLegal {s : State} (h : Reachable s) : s.errLegal := by
  induction h with
  | reset => exact resetErrLegal
  | present s es _ ih => exact ih
  | step s t _ hstep ih => exact stepKeepsErrLegal s t ih hstep

/-- Settles O36: `Reachable.errLegal`, and STATUS shows ERR. -/
theorem reachableStatusReadsAtMostThree : Obligations.ReachableStatusReadsAtMostThree := by
  unfold Obligations.ReachableStatusReadsAtMostThree
  intro s hs
  have hstatus : s.statusWord.toNat ≤ 3 := by
    rw [State.statusWord, BitVec.toNat_setWidth_of_le (by decide)]
    exact hs.errLegal
  exact ⟨hs.errLegal, s.statusWord, hstatus, handleAll_cons_next (handle_read_slot (r := .status) rfl) []⟩

end Sys2Proof.Machine
end

-- ==== the other family: the digest stream ====
section
/-! Which byte an event adds to the digest, what the register comes to over a run, and the settled statement about
it. -/

namespace Sys2Proof.Machine

/-! ## The byte an event digests (R83, R86) -/

theorem digestByte_crcb (b : Byte) : digestByte (commandEvent (encode (.crcb b))) = some b := by
  simp [digestByte, commandEvent, decode_encode]

/-- An operand write hands over no byte. -/
theorem digestByte_of_ne_cmd {off : BitVec 6} (hoff : off ≠ slotOffset .cmd) (size : AccessSize) (v : Word) :
    digestByte (.bus (.wr off size v)) = none := by
  cases size with
  | one | two => rfl
  | four => exact if_neg hoff

theorem writeResponse_error_ne_okay : writeResponse .error ≠ writeResponse .okay := by decide

/-- An event that hands over no byte adds none. -/
theorem byteTaken_of_digestByte_none {e : Event} (he : digestByte e = none) (t : State) : byteTaken e t = none := by
  simp [byteTaken, he]

/-- A refused or faulting event adds none. -/
theorem byteTaken_of_error {e : Event} {t : State} (ht : t.response = writeResponse .error) : byteTaken e t = none := by
  simp [byteTaken, ht, writeResponse_error_ne_okay]

/-- A CRCB answered OKAY adds its byte. -/
theorem byteTaken_crcb {b : Byte} {t : State} (ht : t.response = writeResponse .okay) :
    byteTaken (commandEvent (encode (.crcb b))) t = some b := by
  simp [byteTaken, ht, digestByte_crcb]

/-! ## The stream (R81 to R84) -/

theorem crcBytes_append (s : Word) (m n : List Byte) : crcBytes s (m ++ n) = crcBytes (crcBytes s m) n :=
  List.foldl_append

namespace DigestStream

section
variable {d : DigestStream} {e : Event} {t : State}

theorem after_reset (d : DigestStream) (t : State) : d.after .reset t = .fresh := if_pos rfl

/-- CRCINIT answered OKAY begins a fresh stream (R82). -/
theorem after_crcinit (d : DigestStream) (ht : t.response = writeResponse .okay) :
    d.after (commandEvent (encode .crcinit)) t = .fresh := by
  simp [DigestStream.after, ht]

/-- CRCLOAD answered OKAY resumes from the digest in OPA (R84). -/
theorem after_crcload (d : DigestStream) (ht : t.response = writeResponse .okay) :
    d.after (commandEvent (encode .crcload)) t = { start := t.opa ^^^ Config.crcXorOut, bytes := [] } := by
  have hword : commandEvent (encode .crcload) ≠ commandEvent (encode .crcinit) := by decide
  rw [DigestStream.after, if_neg nofun, if_neg fun h => hword h.1, if_pos ⟨rfl, ht⟩]

/-- An event that begins and resumes no stream adds what it had digested. -/
theorem after_of_not_begun (hreset : e ≠ .reset)
    (hinit : ¬ (e = commandEvent (encode .crcinit) ∧ t.response = writeResponse .okay))
    (hload : ¬ (e = commandEvent (encode .crcload) ∧ t.response = writeResponse .okay)) :
    d.after e t = { d with bytes := d.bytes ++ (byteTaken e t).toList } := by
  rw [DigestStream.after, if_neg hreset, if_neg hinit, if_neg hload]

theorem after_of_keepsStream (he : keepsStream e) :
    d.after e t = { d with bytes := d.bytes ++ (byteTaken e t).toList } :=
  after_of_not_begun he.1 (fun h => he.2.1 h.1) fun h => he.2.2 h.1

theorem after_of_error (hreset : e ≠ .reset) (ht : t.response = writeResponse .error) : d.after e t = d := by
  have hokay : t.response ≠ writeResponse .okay := ht ▸ writeResponse_error_ne_okay
  rw [after_of_not_begun hreset (fun h => hokay h.2) fun h => hokay h.2, byteTaken_of_error ht]
  simp

theorem after_of_digestByte_none (he : keepsStream e) (hbyte : digestByte e = none) : d.after e t = d := by
  rw [after_of_keepsStream he, byteTaken_of_digestByte_none hbyte]
  simp

end

end DigestStream

/-- The word of a command that is neither CRCINIT nor CRCLOAD begins and resumes no stream. -/
theorem keepsStream_encode {i : Instr} (hinit : i ≠ .crcinit) (hload : i ≠ .crcload) :
    keepsStream (commandEvent (encode i)) := by
  have hword : ∀ j : Instr, i ≠ j → commandEvent (encode i) ≠ commandEvent (encode j) := fun j hj h => by
    injection h with h
    injection h with _ _ h
    exact hj (encode_injective h)
  exact ⟨nofun, hword _ hinit, hword _ hload⟩

/-- CRCB answered OKAY extends the stream (R83). -/
theorem DigestStream.after_crcb (d : DigestStream) {b : Byte} {t : State} (ht : t.response = writeResponse .okay) :
    d.after (commandEvent (encode (.crcb b))) t = { d with bytes := d.bytes ++ [b] } := by
  have hkeeps : keepsStream (commandEvent (encode (.crcb b))) := keepsStream_encode nofun nofun
  rw [after_of_keepsStream hkeeps, byteTaken_crcb ht]
  rfl

/-- One byte more is one byte step more (R81). -/
theorem DigestStream.value_snoc (d : DigestStream) (b : Byte) :
    ({ d with bytes := d.bytes ++ [b] } : DigestStream).value = crcStep d.value b :=
  crcBytes_append d.start d.bytes [b]

theorem keepsStream_of_ne_cmd {off : BitVec 6} (hoff : off ≠ slotOffset .cmd) (size : AccessSize) (v : Word) :
    keepsStream (.bus (.wr off size v)) := by
  refine ⟨nofun, fun h => ?_, fun h => ?_⟩
  all_goals
    injection h with h
    injection h with h
    exact hoff h

/-! ## Every event keeps the register the stream's value -/

/-- The register holds the stream's value after the event, where it holds that of what the stream becomes. -/
theorem eq_value_after {d d' : DigestStream} {e : Event} {t : State} (hafter : d.after e t = d')
    (ht : t.crcstate = d'.value) : t.crcstate = (d.after e t).value :=
  ht.trans (congrArg DigestStream.value hafter.symm)

/-- R86 for one event. -/
theorem EventEffect.crcstate_eq_value {s t : State} {e : Event} {d : DigestStream} (h : EventEffect s e t)
    (hs : s.crcstate = d.value) : t.crcstate = (d.after e t).value := by
  cases h with
  | reset => exact eq_value_after (DigestStream.after_reset d _) rfl
  | read => exact eq_value_after (DigestStream.after_of_digestByte_none ⟨nofun, nofun, nofun⟩ rfl) hs
  | refused | fault => exact eq_value_after (DigestStream.after_of_error nofun rfl) hs
  | opa | opb | expl | exph =>
    exact eq_value_after (DigestStream.after_of_digestByte_none (keepsStream_of_ne_cmd (by decide) _ _)
      (digestByte_of_ne_cmd (by decide) _ _)) hs
  | clrerr | nop | divrem =>
    exact eq_value_after (DigestStream.after_of_digestByte_none (keepsStream_encode nofun nofun) rfl) hs
  | arithmetic i v hopen hi =>
    have hother : ∀ j ∈ [Instr.bitrev, .deg, .mulmod, .powmod, .invmod],
        j ≠ .crcinit ∧ j ≠ .crcload ∧ digestByte (commandEvent (encode j)) = none := by decide
    obtain ⟨hinit, hload, hbyte⟩ := hother i hi
    exact eq_value_after (DigestStream.after_of_digestByte_none (keepsStream_encode hinit hload) hbyte) hs
  | crcinit => exact eq_value_after (DigestStream.after_crcinit d rfl) rfl
  | crcb b =>
    refine eq_value_after (DigestStream.after_crcb d rfl) ?_
    rw [DigestStream.value_snoc, ← hs]
    rfl
  | crcload => exact eq_value_after (DigestStream.after_crcload d rfl) rfl

/-! ## Runs -/

theorem bytesTaken_cons {e : Event} {s u : State} (h : handle e s = .next u) (es : List Event) :
    bytesTaken (e :: es) s = (byteTaken e u).toList ++ bytesTaken es u := by
  rw [bytesTaken, h]

/-- R86 over a run that begins and resumes no stream: the stream grows by the bytes taken. -/
theorem handleAll_crcstate_eq_value {es : List Event} {s t : State} {d : DigestStream}
    (hes : ∀ e ∈ es, keepsStream e) (h : handleAll es s = .next t) (hs : s.crcstate = d.value) :
    t.crcstate = crcBytes d.value (bytesTaken es s) := by
  induction es generalizing s d with
  | nil =>
    obtain rfl := eq_of_next (handleAll_nil s) h
    exact hs
  | cons e es ih =>
    obtain ⟨u, hu, hrest⟩ := handleAll_cons_eq_next h
    have hstep := (handle_effect hu).crcstate_eq_value hs
    rw [DigestStream.after_of_keepsStream (hes e List.mem_cons_self)] at hstep
    rw [ih (fun e' he' => hes e' (List.mem_cons_of_mem e he')) hrest hstep, bytesTaken_cons hu, crcBytes_append]
    exact congrArg (crcBytes · _) (crcBytes_append d.start d.bytes _)

/-- R85: CRCDIGEST reads the register inverted. -/
theorem handleAll_read_crcdigest (t : State) :
    handleAll [.bus (.rd (slotOffset .crcdigest) .four)] t =
      .next (t.setResponse (readResponse .okay (t.crcstate ^^^ Config.crcXorOut))) :=
  handleAll_cons_next (handle_read_slot (r := .crcdigest) rfl) []

/-- Settles O43: the step by `EventEffect.crcstate_eq_value`, the run by `handleAll_crcstate_eq_value` from the fresh
stream that the accepted CRCINIT begins. -/
theorem digestIsOfExactlyTheBytesFed : Obligations.DigestIsOfExactlyTheBytesFed := by
  unfold Obligations.DigestIsOfExactlyTheBytesFed
  refine ⟨fun s t e es d hp h hs => ?step, fun es s t hopen hes h => ?run⟩
  case step =>
    rw [step_event hp] at h
    exact (handle_effect h).crcstate_eq_value (s := s.setPending es) hs
  case run =>
    have hinit := handle_of_completes completes_crcinit hopen
    rw [handleAll_cons_next hinit] at h
    have hbytes : bytesTaken (commandEvent (encode .crcinit) :: es) s =
        bytesTaken es ((s.setCrcstate Config.crcInit).setResponse (writeResponse .okay)) := by
      rw [bytesTaken_cons hinit, byteTaken_of_digestByte_none rfl]
      rfl
    have hvalue := handleAll_crcstate_eq_value (d := .fresh) hes h rfl
    rw [← hbytes] at hvalue
    refine ⟨hvalue, ?_⟩
    rw [digest, ← show t.crcstate = crcBytes Config.crcInit _ from hvalue]
    exact handleAll_read_crcdigest t

end Sys2Proof.Machine
end

-- ==== the other family: steps and runs ====
section
/-! No event is left unanswered, none looks at the later ones, and the settled statements about steps and runs. -/

namespace Sys2Proof.Machine

/-! ## Every event is answered (R3, R157) -/

theorem readTransaction_total (off : BitVec 6) (size : AccessSize) (s : State) :
    ∃ t, readTransaction off size s = .next t := by
  cases hword : wholeWord off size with
  | false => exact ⟨_, readTransaction_refused (.inl hword)⟩
  | true =>
    cases hslot : (slotAt off).bind s.readSlot with
    | none => exact ⟨_, readTransaction_refused (.inr hslot)⟩
    | some v => exact ⟨_, (readTransaction_next off size s _).2 (.inr ⟨hword, v, hslot, rfl⟩)⟩

theorem writeSlot_total (d : Word) (s : State) (r : Slot) : ∃ t, writeSlot d s r = .next t := by
  cases r with
  | cmd =>
    obtain ⟨t, ht, -⟩ := commandWrite_answers d s
    exact ⟨t, ht⟩
  | opa | opb | expl | exph | status | res0 | res1 | crcstate | crcdigest => exact ⟨_, rfl⟩

theorem writeTransaction_total (off : BitVec 6) (size : AccessSize) (d : Word) (s : State) :
    ∃ t, writeTransaction off size d s = .next t := by
  cases hword : wholeWord off size with
  | false => exact ⟨_, writeTransaction_refused d (.inl hword)⟩
  | true =>
    cases hslot : slotAt off with
    | none => exact ⟨_, writeTransaction_refused d (.inr hslot)⟩
    | some r =>
      obtain ⟨t, ht⟩ := writeSlot_total d s r
      exact ⟨t, (writeTransaction_next off size d s t).2 (.inr ⟨hword, r, hslot, ht⟩)⟩

theorem handle_total (e : Event) (s : State) : ∃ t, handle e s = .next t := by
  match e with
  | .reset => exact ⟨_, rfl⟩
  | .bus (.rd off size) => exact readTransaction_total off size s
  | .bus (.wr off size d) => exact writeTransaction_total off size d s

/-! ## No event sees a later one (R52) -/

/-- What `f` answers does not depend on the host's later events, and it leaves them pending. -/
def IgnoresPending (f : State → Result) : Prop :=
  ∀ (s t : State) (es : List Event), f s = .next t → f (s.setPending es) = .next (t.setPending es)

/-- Only the body of a command that tests lockout could look at the later events. -/
theorem unlessLocked_ignoresPending {body : State → Result} (hbody : IgnoresPending body) :
    IgnoresPending fun s => unlessLocked s body := by
  intro s t es h
  obtain ⟨hlock, rfl⟩ | ⟨hopen, h⟩ := (unlessLocked_next s t body).1 h
  · exact (unlessLocked_next _ _ body).2 (.inl ⟨hlock, rfl⟩)
  · exact (unlessLocked_next _ _ body).2 (.inr ⟨hopen, hbody s t es h⟩)

/-- An effect on registers alone does not look at them. -/
theorem complete_ignoresPending {after : State → State}
    (hafter : ∀ s es, after (s.setPending es) = (after s).setPending es) :
    IgnoresPending fun s => complete (after s) := by
  intro s t es h
  obtain rfl := (complete_next _ t).1 h
  exact (complete_next _ _).2 (by rw [hafter]; rfl)

theorem raiseFault_ignoresPending (c : FaultCode) : IgnoresPending (raiseFault c) := by
  intro s t es h
  obtain rfl := (raiseFault_next c s t).1 h
  rfl

theorem execDivrem_ignoresPending : IgnoresPending execDivrem := by
  refine unlessLocked_ignoresPending fun s t es h => ?_
  by_cases hopb : s.opb = 0#32
  · rw [if_pos hopb] at h
    exact (if_pos hopb).trans (raiseFault_ignoresPending .div0 s t es h)
  · rw [if_neg hopb] at h
    exact (if_neg hopb).trans (complete_ignoresPending
      (after := fun s => (s.setRes0 (divrem s.opa s.opb).1).setRes1 (divrem s.opa s.opb).2) (fun _ _ => rfl) s t es h)

theorem execInvmod_ignoresPending : IgnoresPending execInvmod := by
  refine unlessLocked_ignoresPending fun s t es h => ?_
  cases hinv : invmod s.opa with
  | none =>
    simp only [hinv, State.setPending_opa] at h ⊢
    exact raiseFault_ignoresPending .noinv s t es h
  | some r =>
    simp only [hinv, State.setPending_opa] at h ⊢
    exact complete_ignoresPending (after := (·.setRes0 r)) (fun _ _ => rfl) s t es h

/-- A command sees the registers and the lockout, and nothing of what comes later. -/
theorem exec_ignoresPending (i : Instr) : IgnoresPending (exec i) := by
  cases i with
  | clrerr => exact complete_ignoresPending fun _ _ => rfl
  | divrem => exact execDivrem_ignoresPending
  | invmod => exact execInvmod_ignoresPending
  | nop | bitrev | deg | mulmod | powmod | crcinit | crcb | crcload =>
    exact unlessLocked_ignoresPending (complete_ignoresPending fun _ _ => rfl)

theorem commandWrite_ignoresPending (w : Word) : IgnoresPending (commandWrite w) := by
  intro s t es h
  cases hd : decode w with
  | ok i =>
    rw [commandWrite_decoded hd] at h ⊢
    exact exec_ignoresPending i s t es h
  | error r =>
    rw [commandWrite_illegal hd] at h ⊢
    exact unlessLocked_ignoresPending (raiseFault_ignoresPending .illcmd) s t es h

theorem writeSlot_ignoresPending (d : Word) (r : Slot) : IgnoresPending fun s => writeSlot d s r := by
  cases r with
  | cmd => exact commandWrite_ignoresPending d
  | opa | opb | expl | exph => exact complete_ignoresPending fun _ _ => rfl
  | status | res0 | res1 | crcstate | crcdigest =>
    intro s t es h
    obtain rfl := (turnAway_next s t).1 h
    rfl

theorem readTransaction_ignoresPending (off : BitVec 6) (size : AccessSize) :
    IgnoresPending (readTransaction off size) := by
  intro s t es h
  have hslot : (s.setPending es).readSlot = s.readSlot := funext fun r => State.setPending_readSlot s es r
  rw [readTransaction_next] at h ⊢
  rw [hslot]
  obtain ⟨hrefused, rfl⟩ | ⟨hword, v, hv, rfl⟩ := h
  · exact .inl ⟨hrefused, rfl⟩
  · exact .inr ⟨hword, v, hv, rfl⟩

theorem writeTransaction_ignoresPending (off : BitVec 6) (size : AccessSize) (d : Word) :
    IgnoresPending (writeTransaction off size d) := by
  intro s t es h
  rw [writeTransaction_next] at h ⊢
  obtain ⟨hrefused, rfl⟩ | ⟨hword, r, hslot, hwrite⟩ := h
  · exact .inl ⟨hrefused, rfl⟩
  · exact .inr ⟨hword, r, hslot, writeSlot_ignoresPending d r s t es hwrite⟩

theorem handle_ignoresPending (e : Event) : IgnoresPending (handle e) := by
  match e with
  | .reset =>
    intro s t es h
    obtain rfl := eq_of_next rfl h
    rfl
  | .bus (.rd off size) => exact readTransaction_ignoresPending off size
  | .bus (.wr off size d) => exact writeTransaction_ignoresPending off size d

/-! ## Runs -/

theorem run_succ_of_step {M : Host.Core} {s u : M.State} (h : M.step s = .next u) (k : Nat) :
    M.run (k + 1) s = M.run k u := by
  simp [Host.Core.run, h]

/-- The steps that take the events `es` are the fold over them (R52). -/
theorem run_eq_handleAll {es : List Event} {s t : State} (later : List Event) (h : handleAll es s = .next t) :
    Host.Core.run core es.length (s.setPending (es ++ later)) = .next (t.setPending later) := by
  induction es generalizing s with
  | nil =>
    obtain rfl := eq_of_next (handleAll_nil s) h
    rfl
  | cons e es ih =>
    obtain ⟨u, hu, hrest⟩ := handleAll_cons_eq_next h
    have hstep : core.step (s.setPending (e :: es ++ later)) = .next (u.setPending (es ++ later)) :=
      (step_event (s := s.setPending (e :: es ++ later)) rfl).trans (handle_ignoresPending e s u (es ++ later) hu)
    exact (run_succ_of_step hstep es.length).trans (ih hrest)

/-! ## The statements -/

/-- Settles O8: an idle step keeps the state, and every event is answered (`handle_total`). -/
theorem everyStepAnswersANextState : Obligations.EveryStepAnswersANextState := by
  unfold Obligations.EveryStepAnswersANextState
  refine ⟨fun s => ?total, fun s => step_idle⟩
  cases hp : s.pending with
  | nil => exact ⟨s, step_idle hp⟩
  | cons e es =>
    rw [step_event hp]
    exact handle_total e _

/-- Settles O9: `run_eq_handleAll` from the state with nothing else pending. -/
theorem runIsFoldOverEvents : Obligations.RunIsFoldOverEvents := by
  unfold Obligations.RunIsFoldOverEvents
  exact fun _ later s _ h => run_eq_handleAll (s := s.setPending []) later h

/-- Settles O10: both steps handle the same event, and `handle_ignoresPending`. -/
theorem stepIgnoresLaterEvents : Obligations.StepIgnoresLaterEvents := by
  unfold Obligations.StepIgnoresLaterEvents
  intro s t e later other h
  have hhandle := (step_event (s := s.setPending (e :: later)) rfl).symm.trans h
  exact (step_event (s := s.setPending (e :: other)) rfl).trans
    (handle_ignoresPending e (s.setPending later) t other hhandle)

/-- Settles O6: the event is the write of the word to CMD, and the word decodes. -/
theorem stepRunsTheDecodedCommand : Obligations.StepRunsTheDecodedCommand := by
  unfold Obligations.StepRunsTheDecodedCommand
  exact fun s w es i hp hdecode => (step_commandEvent hp).trans (commandWrite_decoded hdecode _)

/-- Settles O39: the operands are 0 after reset, so DIVREM and INVMOD have a cause for their faults and no other command
has one. -/
theorem everyCommandRunsAfterReset : Obligations.EveryCommandRunsAfterReset := by
  unfold Obligations.EveryCommandRunsAfterReset
  intro i
  have hstep : step (State.reset.setPending [commandEvent (encode i)]) = exec i State.reset :=
    (step_commandEvent rfl).trans (commandWrite_decoded (decode_encode i) _)
  by_cases hdivrem : i = .divrem
  · subst hdivrem
    exact ⟨_, hstep.trans (divrem_faults State.reset rfl rfl), fun h => absurd rfl h, fun _ => ⟨⟨_, rfl⟩, rfl⟩, nofun⟩
  by_cases hinvmod : i = .invmod
  · subst hinvmod
    exact ⟨_, hstep.trans (invmod_faults_on_zero State.reset rfl rfl), fun _ h => absurd rfl h, nofun,
      fun _ => ⟨⟨_, rfl⟩, rfl⟩⟩
  have hno : ∀ c, ¬ CausesFault State.reset (encode i) c := by
    rintro c (⟨hw, -⟩ | ⟨hw, -⟩ | hw)
    · exact hdivrem (encode_injective hw)
    · exact hinvmod (encode_injective hw)
    · rw [(decode_ok_iff_legalWord _).1 ⟨i, decode_encode i⟩] at hw
      cases hw
  obtain ⟨t, ht, hokay, herr⟩ := exec_okay_of_no_cause rfl hno
  exact ⟨t, hstep.trans ht, fun _ _ => ⟨⟨_, hokay⟩, herr⟩, fun h => absurd h hdivrem, fun h => absurd h hinvmod⟩

end Sys2Proof.Machine
end

-- ==== the other family: the window, CRCLOAD and INVMOD ====
section
/-! The byte view and the host addresses of the window, and the settled statements about them and about the commands
CRCLOAD and INVMOD. -/

namespace Sys2Proof.Machine

/-! ## The window (R41, R42, R47) -/

/-- Byte `k` of a readable slot's word is bits `8k+7 : 8k` of its value (R47). -/
theorem windowByte_slotOffset_add {s : State} {r : Slot} {v : Word} (hv : s.readSlot r = some v) {k : BitVec 6}
    (hk : k ∈ [0#6, 1#6, 2#6, 3#6]) : s.windowByte (slotOffset r + k) = some (v.extractLsb' (8 * k.toNat) 8) := by
  have hplace : ∀ q : Slot, ∀ j ∈ [0#6, 1#6, 2#6, 3#6],
      slotAt ((slotOffset q + j) &&& 0x3C#6) = some q ∧ (slotOffset q + j).toNat % 4 = j.toNat := by
    intro q
    cases q <;> decide
  obtain ⟨hslot, hbyte⟩ := hplace r k hk
  rw [State.windowByte, hslot, hbyte, Option.bind_some, hv, Option.map_some]

/-- A word by its four bytes. -/
theorem toNat_eq_bytes (v : Word) :
    v.toNat = (v.extractLsb' 0 8).toNat + 2 ^ 8 * (v.extractLsb' 8 8).toNat + 2 ^ 16 * (v.extractLsb' 16 8).toNat +
      2 ^ 24 * (v.extractLsb' 24 8).toNat := by
  have hv := v.isLt
  simp only [BitVec.extractLsb'_toNat, Nat.shiftRight_eq_div_pow]
  omega

/-- R42: an address of the window is the offset from BASE. -/
theorem windowOffset_base_add (off : BitVec 6) : windowOffset (Config.base + off.toNat) = some off := by
  have hoff := off.isLt
  have hinside : Config.base ≤ Config.base + off.toNat ∧
      Config.base + off.toNat < Config.base + Config.windowBytes := by
    rw [Config.windowBytes]
    omega
  rw [windowOffset, if_pos hinside, Nat.add_sub_cancel_left, BitVec.ofNat_toNat, BitVec.setWidth_eq]

/-- V9: no other address is the block's (log 5). -/
theorem windowOffset_outside {addr : Nat} (h : addr < Config.base ∨ Config.base + 64 ≤ addr) :
    windowOffset addr = none := by
  refine if_neg fun hinside => ?_
  rw [Config.windowBytes] at hinside
  omega

/-! ## The statements -/

/-- Settles O15: each byte by `windowByte_slotOffset_add`, and `toNat_eq_bytes` puts them together. -/
theorem windowIsLittleEndian : Obligations.WindowIsLittleEndian := by
  unfold Obligations.WindowIsLittleEndian
  intro s r v hv
  have hbyte {k : BitVec 6} (hk : k ∈ [0#6, 1#6, 2#6, 3#6]) := windowByte_slotOffset_add hv hk
  refine ⟨_, _, _, _, ?_, hbyte (k := 1#6) (by decide), hbyte (k := 2#6) (by decide), hbyte (k := 3#6) (by decide),
    toNat_eq_bytes v⟩
  rw [← BitVec.add_zero (slotOffset r)]
  exact hbyte (by decide)

/-- Settles O16: both transactions carry the offset that `windowOffset` finds. -/
theorem hostAddressesReachTheWindow : Obligations.HostAddressesReachTheWindow := by
  unfold Obligations.HostAddressesReachTheWindow
  constructor
  · intro off size v
    rw [memRead, memWrite, windowOffset_base_add]
    exact ⟨rfl, rfl⟩
  · intro addr size v h
    rw [memRead, memWrite, windowOffset_outside h]
    exact ⟨rfl, rfl⟩

/-- Settles O25: out of lockout INVMOD is what the loop finds for OPA. -/
theorem invmodWritesEuclidResult : Obligations.InvmodWritesEuclidResult := by
  unfold Obligations.InvmodWritesEuclidResult
  exact ⟨rfl, refusedInLockout_of_ne_clrerr nofun, fun _ _ => exec_invmod_some, fun _ => exec_invmod_none⟩

/-- Out of lockout CRCLOAD loads the digest in OPA, inverted. -/
theorem exec_crcload_open {s : State} {v : Word} (hopen : s.err = 0#4) (hv : s.opa ^^^ Config.crcXorOut = v) :
    exec .crcload s = complete (s.setCrcstate v) :=
  hv ▸ completes_crcload s hopen trivial

/-- From the digest 0 CRCLOAD loads CRCINIT's value, and lockout refuses both. -/
theorem exec_crcload_of_opa_zero {s : State} (hopa : s.opa = 0#32) : exec .crcload s = exec .crcinit s := by
  by_cases hopen : s.err = 0#4
  · have hvalue : s.opa ^^^ Config.crcXorOut = Config.crcInit := by rw [hopa]; decide
    exact (exec_crcload_open hopen hvalue).trans (completes_crcinit s hopen trivial).symm
  · exact (exec_locked (i := .crcload) nofun hopen).trans (exec_locked (i := .crcinit) nofun hopen).symm

/-- Settles O29: CRCLOAD completes with OPA inverted in CRCSTATE; the example is that inversion. -/
theorem crcloadResumesFromDigest : Obligations.CrcloadResumesFromDigest := by
  unfold Obligations.CrcloadResumesFromDigest
  refine ⟨rfl, completes_crcload, refusedInLockout_of_ne_clrerr nofun, fun _ => exec_crcload_of_opa_zero,
    fun s hopen hopa => ?concrete⟩
  case concrete =>
    have hvalue : s.opa ^^^ Config.crcXorOut = 0x88A11863#32 := by rw [hopa]; decide
    exact exec_crcload_open hopen hvalue

end Sys2Proof.Machine
end

-- ==== the other family: products ====
section
/-! The carry-less product as the product of polynomials, the remainder by the generator, and the settled statements
about doubling, `mulmod` and MULMOD. -/

namespace Sys2Proof.Machine

open Polynomial

/-! ## The carry-less product (R108) -/

section
variable {w : Nat} (x y : BitVec w)

/-- The sum of `clmul` over the bits of `y` below bit `n`. -/
def clmulBelow (n : Nat) : BitVec w :=
  (List.range n).foldl (fun z i => if y.getLsbD i then z ^^^ (x <<< i) else z) 0#w

theorem clmul_eq_clmulBelow : clmul x y = clmulBelow x y w := rfl

theorem clmulBelow_zero : clmulBelow x y 0 = 0#w := rfl

theorem clmulBelow_succ (n : Nat) :
    clmulBelow x y (n + 1) = if y.getLsbD n then clmulBelow x y n ^^^ (x <<< n) else clmulBelow x y n := by
  simp [clmulBelow, List.range_succ]

variable {x y}

/-- No bit of the product reaches the width. -/
def ProductFits (x y : BitVec w) : Prop := ∀ i j, x.getLsbD i = true → y.getLsbD j = true → i + j < w

theorem productFits_of_deg (h : deg x + deg y < w) : ProductFits x y := by
  intro i j hi hj
  have hx : (i : Int) ≤ deg x := by
    by_contra hlt
    rw [getLsbD_of_deg_lt (by omega)] at hi
    cases hi
  have hy : (j : Int) ≤ deg y := by
    by_contra hlt
    rw [getLsbD_of_deg_lt (by omega)] at hj
    cases hj
  omega

/-- Twice the width holds every product. -/
theorem productFits_setWidth (x y : BitVec w) : ProductFits (x.setWidth (2 * w)) (y.setWidth (2 * w)) := by
  intro i j hi hj
  rw [BitVec.getLsbD_setWidth, Bool.and_eq_true] at hi hj
  have hxi := BitVec.lt_of_getLsbD hi.2
  have hyj := BitVec.lt_of_getLsbD hj.2
  omega

/-- A summand of the product loses no bit. -/
theorem toPoly_shiftLeft_of_productFits (h : ProductFits x y) {n : Nat} (hbit : y.getLsbD n = true) :
    toPoly (x <<< n) = toPoly x * X ^ n :=
  toPoly_shiftLeft fun i hi => by
    by_contra hset
    have hlt := h i n (Bool.eq_true_of_not_eq_false hset) hbit
    omega

theorem toPoly_clmulBelow (h : ProductFits x y) (n : Nat) :
    toPoly (clmulBelow x y n) =
      toPoly x * ∑ i ∈ Finset.range n, if y.getLsbD i then (X : (ZMod 2)[X]) ^ i else 0 := by
  induction n with
  | zero => rw [clmulBelow_zero, toPoly_zero, Finset.sum_range_zero, mul_zero]
  | succ n ih =>
    rw [clmulBelow_succ, Finset.sum_range_succ, mul_add, ← ih]
    cases hbit : y.getLsbD n with
    | false => simp
    | true => simp [toPoly_shiftLeft_of_productFits h hbit]

/-- Where it fits, the carry-less product is the product of the polynomials. -/
theorem toPoly_clmul (h : ProductFits x y) : toPoly (clmul x y) = toPoly x * toPoly y := by
  rw [clmul_eq_clmulBelow, toPoly_clmulBelow h]
  rfl

theorem toPoly_clmul_setWidth (x y : BitVec w) :
    toPoly (clmul (x.setWidth (2 * w)) (y.setWidth (2 * w))) = toPoly x * toPoly y := by
  rw [toPoly_clmul (productFits_setWidth x y), toPoly_setWidth_of_le x (by omega), toPoly_setWidth_of_le y (by omega)]

end

/-! ## The remainder by the generator (R95, R105) -/

theorem deg_p33_setWidth {m : Nat} (hm : 33 ≤ m) : deg (Config.p33.setWidth m) = 32 := by
  have hp33 : deg Config.p33 = 32 := by decide
  have hbits : ∀ i, (Config.p33.setWidth m).getLsbD i = Config.p33.getLsbD i := fun i => by
    by_cases hi : i < m
    · simp [hi]
    · simp [hi, BitVec.getLsbD_of_ge Config.p33 i (by omega)]
  rw [← hp33]
  exact le_antisymm (deg_le_of_bits hbits) (deg_le_of_bits fun i => (hbits i).symm)

/-- The remainder by the generator is the word with the same residue. -/
theorem divrem_p33_remainder {m : Nat} (hm : 33 ≤ m) {x : BitVec m} {r : Word} (h : residue x = residue r) :
    (divrem x (Config.p33.setWidth m)).2 = r.setWidth m := by
  have hne : Config.p33.setWidth m ≠ 0#m := fun hzero => by
    have htop := getLsbD_of_deg_eq (deg_p33_setWidth hm)
    rw [hzero, BitVec.getLsbD_zero] at htop
    cases htop
  have hshort : ∀ i, 32 ≤ i → (divrem x (Config.p33.setWidth m)).2.getLsbD i = false := fun i hi =>
    divrem_remainder_bits x hne (by rw [deg_p33_setWidth hm]; omega)
  have hsum := congrArg (AdjoinRoot.mk (toPoly Config.p33)) (toPoly_divrem x hne)
  rw [toPoly_setWidth_of_le Config.p33 hm, map_add, map_mul, AdjoinRoot.mk_self, mul_zero, zero_add,
    ← toPoly_setWidth hshort] at hsum
  have hword : (divrem x (Config.p33.setWidth m)).2.setWidth 32 = r := residue_injective (hsum.trans h)
  exact toPoly_injective (by rw [← toPoly_setWidth hshort, hword, toPoly_setWidth_of_le r (by omega)])

/-! ## Products of words (R97) -/

section
variable (a b c : Word)

theorem mulmod_comm : mulmod a b = mulmod b a :=
  residue_injective (by simp [mul_comm])

theorem mulmod_assoc : mulmod (mulmod a b) c = mulmod a (mulmod b c) :=
  residue_injective (by simp [mul_assoc])

theorem mulmod_xor : mulmod a (b ^^^ c) = mulmod a b ^^^ mulmod a c :=
  residue_injective (by simp [mul_add])

theorem mulmod_one_right : mulmod a 1#32 = a := by rw [mulmod_comm, mulmod_one_left]

theorem mulmod_zero_left : mulmod 0#32 a = 0#32 := by rw [mulmod_comm, mulmod_zero_right]

variable {a b}

/-- Below degree 32 nothing is reduced. -/
theorem mulmod_eq_clmul (h : deg a + deg b < 32) : mulmod a b = clmul a b := by
  refine residue_injective ?_
  rw [residue_mulmod, residue, residue, residue, toPoly_clmul (productFits_of_deg h), map_mul]

end

/-! ## Doubling (R98) -/

/-- The generator without its top term, xored in where the doubled word has 33 bits. -/
theorem double_eq (x : Word) : double x = (x <<< 1) ^^^ (if x.getLsbD 31 then 0x04C11DB7#32 else 0#32) := by
  have htop : (x.setWidth 33 <<< 1).getLsbD 32 = x.getLsbD 31 := by simp
  have hlow : (x.setWidth 33 <<< 1).setWidth 32 = x <<< 1 := by
    refine BitVec.eq_of_getLsbD_eq fun i hi => ?_
    simp [hi]
  have hgenerator : Config.p33.setWidth 32 = 0x04C11DB7#32 := by decide
  rw [double, htop]
  cases x.getLsbD 31 with
  | false => simp [hlow]
  | true => simp [hlow, hgenerator]

/-! ## The statements -/

/-- Settles O46: the remainder has the residue of the product of the two polynomials, which is `mulmod`'s. -/
theorem mulmodIsRemainderOfProduct : Obligations.MulmodIsRemainderOfProduct := by
  unfold Obligations.MulmodIsRemainderOfProduct
  intro a b
  refine (divrem_p33_remainder (by decide) ?_).symm
  rw [residue_mulmod, residue, residue, residue, ← map_mul]
  exact congrArg _ (toPoly_clmul_setWidth a b)

/-- Settles O47: `mulmod` multiplies residues, which form a commutative ring. -/
theorem mulmodRingLaws : Obligations.MulmodRingLaws := by
  unfold Obligations.MulmodRingLaws
  exact fun a b c => ⟨mulmod_comm a b, mulmod_assoc a b c, mulmod_xor a b c, mulmod_one_right a, mulmod_zero_right a,
    mulmod_eq_clmul⟩

/-- Settles O48, by `double_eq`. -/
theorem doublingTestsTheTopBit : Obligations.DoublingTestsTheTopBit := by
  unfold Obligations.DoublingTestsTheTopBit
  exact double_eq

/-- Settles O22: MULMOD completes with the product in RES0; the corner cases are the products with 0 and 1, and the
three examples are evaluated. -/
theorem mulmodWritesProductToRes0 : Obligations.MulmodWritesProductToRes0 := by
  unfold Obligations.MulmodWritesProductToRes0
  exact ⟨rfl, completes_mulmod, refusedInLockout_of_ne_clrerr nofun, mulmod_zero_left, fun x => mulmod_zero_right x,
    mulmod_one_left, mulmod_one_right, by decide +kernel, by decide +kernel, by decide +kernel⟩

end Sys2Proof.Machine
end

-- ==== the other family: division ====
section
/-! Division with remainder at every width: the degrees, and why quotient and remainder are the only ones. -/

namespace Sys2Proof.Machine

open Polynomial

section
variable {w : Nat}

/-- The degree of a bit vector is the degree of its polynomial. -/
theorem toPoly_degree {v : BitVec w} {d : Nat} (h : deg v = d) : (toPoly v).degree = d := by
  refine le_antisymm (Order.lt_succ_iff.1 ?below) (le_degree_of_ne_zero ?top)
  case below => exact toPoly_degree_lt fun i hi => getLsbD_of_deg_lt (by rw [h]; exact_mod_cast hi)
  case top => rw [toPoly_coeff, getLsbD_of_deg_eq h]; exact one_ne_zero

theorem toPoly_ne_zero {v : BitVec w} (hv : v ≠ 0#w) : toPoly v ≠ 0 := fun h =>
  hv (toPoly_injective (h.trans toPoly_zero.symm))

/-- Bit vectors of smaller degree have polynomials of smaller degree. -/
theorem toPoly_degree_lt_of_deg_lt {u v : BitVec w} (h : deg u < deg v) : (toPoly u).degree < (toPoly v).degree := by
  obtain ⟨hlow, -⟩ := deg_bounds u
  obtain ⟨d, hd⟩ := Int.eq_ofNat_of_zero_le (a := deg v) (by omega)
  rw [toPoly_degree hd]
  exact toPoly_degree_lt fun i hi => getLsbD_of_deg_lt (by omega)

/-- Quotient and remainder of polynomials are unique. -/
theorem eq_of_mul_add_eq_mul_add {y q r q' r' : (ZMod 2)[X]} (hy : y ≠ 0) (hr : r.degree < y.degree)
    (hr' : r'.degree < y.degree) (h : q * y + r = q' * y + r') : q = q' ∧ r = r' := by
  have hdvd : y ∣ r - r' := ⟨q' - q, by linear_combination h⟩
  have hrem : r = r' := sub_eq_zero.1 (eq_zero_of_dvd_of_degree_lt hdvd
    ((degree_sub_le r r').trans_lt (max_lt hr hr')))
  rw [hrem, add_left_inj] at h
  exact ⟨mul_right_cancel₀ hy h, hrem⟩

variable {x y : BitVec w}

/-- R108 (b). -/
theorem deg_divrem_remainder_lt (x : BitVec w) (hy : y ≠ 0#w) : deg (divrem x y).2 < deg y := by
  obtain ⟨d, hd⟩ := exists_deg_eq hy
  rw [hd]
  exact deg_lt_of_bits fun i hi => divrem_remainder_bits x hy (by rw [hd]; exact_mod_cast hi)

/-- R108 (a), as the statement has it: in twice the width nothing of the product is lost. -/
theorem setWidth_eq_clmul_xor (q r : BitVec w) :
    x.setWidth (2 * w) = clmul (q.setWidth (2 * w)) (y.setWidth (2 * w)) ^^^ r.setWidth (2 * w) ↔
      toPoly q * toPoly y + toPoly r = toPoly x := by
  rw [← toPoly_injective.eq_iff, toPoly_xor, toPoly_clmul_setWidth, toPoly_setWidth_of_le x (by omega),
    toPoly_setWidth_of_le r (by omega), eq_comm]

/-- R108 (c). -/
theorem divrem_unique (hy : y ≠ 0#w) {q r : BitVec w} (h : toPoly q * toPoly y + toPoly r = toPoly x)
    (hr : deg r < deg y) : (q, r) = divrem x y := by
  obtain ⟨hq, hrem⟩ := eq_of_mul_add_eq_mul_add (toPoly_ne_zero hy) (toPoly_degree_lt_of_deg_lt hr)
    (toPoly_degree_lt_of_deg_lt (deg_divrem_remainder_lt x hy)) (h.trans (toPoly_divrem x hy).symm)
  exact Prod.ext (toPoly_injective hq) (toPoly_injective hrem)

/-- R108 (e): the degrees of quotient and divisor add up to the dividend's. -/
theorem deg_divrem_quotient (hx : x ≠ 0#w) (hy : y ≠ 0#w) (h : deg y ≤ deg x) :
    deg (divrem x y).1 = deg x - deg y := by
  have hsum := toPoly_divrem x hy
  have hrem := toPoly_degree_lt_of_deg_lt (deg_divrem_remainder_lt x hy)
  have hquot : (divrem x y).1 ≠ 0#w := fun hzero => by
    rw [hzero, toPoly_zero, zero_mul, zero_add] at hsum
    have hlt := deg_divrem_remainder_lt x hy
    rw [toPoly_injective hsum] at hlt
    omega
  obtain ⟨dq, hdq⟩ := exists_deg_eq hquot
  obtain ⟨dx, hdx⟩ := exists_deg_eq hx
  obtain ⟨dy, hdy⟩ := exists_deg_eq hy
  have hproduct : (toPoly (divrem x y).1 * toPoly y).degree = ((dq + dy : Nat) : WithBot Nat) := by
    rw [degree_mul, toPoly_degree hdq, toPoly_degree hdy]
    rfl
  have hle : (toPoly (divrem x y).2).degree < (toPoly (divrem x y).1 * toPoly y).degree := by
    rw [hproduct]
    rw [toPoly_degree hdy] at hrem
    exact hrem.trans_le (by exact_mod_cast Nat.le_add_left dy dq)
  have hdegrees := degree_add_eq_left_of_degree_lt hle
  rw [hsum, hproduct, toPoly_degree hdx] at hdegrees
  have hnat : dx = dq + dy := by exact_mod_cast hdegrees
  omega

end

/-- The document's test property (R108): within the width of a word nothing is reduced. -/
theorem mulmod_divrem_xor (x : Word) {y : Word} (hy : y ≠ 0#32) :
    mulmod (divrem x y).1 y ^^^ (divrem x y).2 = x := by
  refine residue_injective ?_
  rw [residue_xor, residue_mulmod, residue, residue, residue, residue, ← map_mul, ← map_add, toPoly_divrem x hy]

/-- Settles O50: existence is `toPoly_divrem`, uniqueness that of division of polynomials, and the degrees are those of
the polynomials. -/
theorem divremIsPolynomialDivision : Obligations.DivremIsPolynomialDivision := by
  unfold Obligations.DivremIsPolynomialDivision
  refine ⟨fun w x y hy => ⟨(setWidth_eq_clmul_xor _ _).2 (toPoly_divrem x hy), deg_divrem_remainder_lt x hy,
    fun q r h => divrem_unique hy ((setWidth_eq_clmul_xor q r).1 h), divrem_of_deg_lt,
    fun hx => deg_divrem_quotient hx hy⟩, fun x y => mulmod_divrem_xor x⟩

end Sys2Proof.Machine
end

-- ==== the other family: the loops' bounds ====
section
/-! More iterations than the spec's bounds change nothing. -/

namespace Sys2Proof.Machine

/-- An operand's degree bounds the bits the loops look at. -/
theorem getLsbD_of_deg_add_one_le {w n : Nat} {y : BitVec w} (h : deg y + 1 ≤ n) {i : Nat} (hi : n ≤ i) :
    y.getLsbD i = false :=
  getLsbD_of_deg_lt (by omega)

theorem toNat_lt_of_deg_add_one_le {w n : Nat} {y : BitVec w} (h : deg y + 1 ≤ n) : y.toNat < 2 ^ n :=
  Nat.lt_pow_two_of_testBit _ fun _ hi => getLsbD_of_deg_add_one_le h hi

/-- Two bounds above the degree of `Y` end the loop in the same values, with `Y = 0` (R114). -/
theorem euclidLoop_of_deg_lt {e : Euclid} {n m : Nat} (hn : deg e.Y < n) (hm : deg e.Y < m) :
    (euclidLoop n e).Y = 0#32 ∧ euclidLoop n e = euclidLoop m e := by
  induction n generalizing e m with
  | zero =>
    have hzero : e.Y = 0#32 := by
      by_contra hy
      have hnonneg := deg_nonneg hy
      omega
    exact ⟨hzero, (euclidLoop_done m hzero).symm⟩
  | succ n ih =>
    by_cases hy : e.Y = 0#32
    · rw [euclidLoop_done (n + 1) hy, euclidLoop_done m hy]
      exact ⟨hy, rfl⟩
    · have hfall := deg_euclidStep_Y_lt hy
      have hnonneg := deg_nonneg hy
      obtain ⟨k, rfl⟩ : ∃ k, m = k + 1 := ⟨m - 1, by omega⟩
      rw [euclidLoop_more n hy, euclidLoop_more k hy]
      exact ih (by omega) (by omega)

/-- Settles O49: the first two loops give one residue for every bound above the degree; the third by
`euclidLoop_of_deg_lt`. -/
theorem loopsEndWithinTheirBounds : Obligations.LoopsEndWithinTheirBounds := by
  unfold Obligations.LoopsEndWithinTheirBounds
  refine ⟨fun w n x y z h => ?mulmod, fun n b e z h => ?powmod, fun v n h => ?euclid⟩
  case mulmod =>
    refine residue_injective ?_
    rw [residue_mulmodLoop (fun i => getLsbD_of_deg_add_one_le h),
      residue_mulmodLoop fun i hi => BitVec.getLsbD_of_ge y i hi]
  case powmod =>
    refine residue_injective ?_
    rw [residue_powmodLoop (toNat_lt_of_deg_add_one_le h), residue_powmodLoop e.isLt]
  case euclid =>
    exact euclidLoop_of_deg_lt (e := euclidStart v) (Int.lt_of_add_one_le h) (deg_bounds v).2

end Sys2Proof.Machine
end

-- ==== the other family: powers and inverses ====
section
/-! The laws of powers and inverses in the field of residues, and the settled statements about them. -/

namespace Sys2Proof.Machine

/-! ## Powers (R102) -/

theorem powmod_toNat_add {b : Word} {e e1 e2 : Exponent} (h : e.toNat = e1.toNat + e2.toNat) :
    powmod b e = mulmod (powmod b e1) (powmod b e2) :=
  residue_injective (by rw [residue_mulmod, residue_powmod, residue_powmod, residue_powmod, h, pow_add])

theorem powmod_toNat_mul {b : Word} {e e1 e2 : Exponent} (h : e.toNat = e1.toNat * e2.toNat) :
    powmod b e = powmod (powmod b e1) e2 :=
  residue_injective (by rw [residue_powmod, residue_powmod, residue_powmod, h, pow_mul])

/-- The field has 2^32 - 1 elements but 0: each is a power of x, whose order that is. -/
theorem residue_pow_groupOrder {b : Word} (hb : b ≠ 0#32) : residue b ^ 4294967295 = 1 := by
  obtain ⟨e, rfl⟩ := exists_powmod_two_eq hb
  rw [residue_powmod, pow_right_comm, ← orderOf_residue_two, pow_orderOf_eq_one, one_pow]

/-- Exponents count modulo 2^32 - 1. -/
theorem powmod_mod_groupOrder {b : Word} (hb : b ≠ 0#32) (e : Exponent) :
    powmod b e = powmod b (e % 0xFFFFFFFF#64) := by
  refine residue_injective ?_
  rw [residue_powmod, residue_powmod, BitVec.toNat_umod]
  exact pow_eq_pow_mod e.toNat (residue_pow_groupOrder hb)

theorem powmod_groupOrder {b : Word} (hb : b ≠ 0#32) : powmod b 0xFFFFFFFF#64 = 1#32 := by
  rw [powmod_mod_groupOrder hb]
  exact powmod_exponent_zero b

/-- The power that inverts (R115). -/
theorem mulmod_powmod_inverse {b : Word} (hb : b ≠ 0#32) : mulmod (powmod b 0xFFFFFFFE#64) b = 1#32 := by
  have hsum : powmod b 0xFFFFFFFF#64 = mulmod (powmod b 0xFFFFFFFE#64) (powmod b 1#64) := powmod_toNat_add (by decide)
  rw [← powmod_groupOrder hb, hsum, powmod_exponent_one]

/-- Squaring 32 times is the identity of the field. -/
theorem powmod_fieldOrder (b : Word) : powmod b 0x100000000#64 = b := by
  by_cases hb : b = 0#32
  · rw [hb]
    exact powmod_base_zero (by decide)
  · rw [powmod_mod_groupOrder hb]
    exact powmod_exponent_one b

/-- Below the order no power of x but the first is 1. -/
theorem powerOfX_ne_one {k : Nat} (hpos : 0 < k) (hk : k < 4294967295) : powerOfX k ≠ 1#32 := fun h => by
  have hzero : powerOfX 0 = 1#32 := powmod_exponent_zero 2#32
  have hsame := powerOfX_injOn (Finset.mem_coe.2 (Finset.mem_range.2 hk))
    (Finset.mem_coe.2 (Finset.mem_range.2 (by omega))) (h.trans hzero.symm)
  omega

/-! ## Inverses (R115) -/

theorem residue_eq_zero_iff {v : Word} : residue v = 0 ↔ v = 0#32 := by
  rw [← residue_zero 32, residue_injective.eq_iff]

/-- R97: the field has no zero divisors. -/
theorem eq_zero_of_mulmod_eq_zero {a b : Word} (h : mulmod a b = 0#32) : a = 0#32 ∨ b = 0#32 := by
  refine or_iff_not_imp_left.2 fun ha => residue_eq_zero_iff.1 ?_
  rw [← residue_eq_zero_iff, residue_mulmod] at h
  exact (isUnit_residue ha).mul_right_eq_zero.1 h

theorem ne_zero_of_mulmod_eq_one {r v : Word} (h : mulmod r v = 1#32) : v ≠ 0#32 := by
  rintro rfl
  rw [mulmod_zero_right] at h
  cases h

/-- `invmod` finds the inverse, and nothing else. -/
theorem invmod_eq_some_iff {r v : Word} : invmod v = some r ↔ mulmod r v = 1#32 := by
  constructor
  · intro h
    have hv : v ≠ 0#32 := by
      rintro rfl
      rw [invmod_zero] at h
      cases h
    obtain ⟨u, hu, hone⟩ := exists_invmod_eq_some hv
    rw [h] at hu
    injection hu with hu
    rw [hu, hone]
  · intro h
    obtain ⟨u, hu, hone⟩ := exists_invmod_eq_some (ne_zero_of_mulmod_eq_one h)
    have hsame : u = r := by
      rw [← mulmod_one_right u, ← h, mulmod_comm r v, ← mulmod_assoc, hone, mulmod_one_left]
    rw [hu, hsame]

/-- R114 (a) holds after every number of iterations. -/
theorem EuclidInvariant.iterate {v : Word} {e : Euclid} (h : EuclidInvariant v e) (k : Nat) :
    EuclidInvariant v (euclidLoop k e) := by
  induction k generalizing e with
  | zero => exact h
  | succ k ih =>
    by_cases hy : e.Y = 0#32
    · rwa [euclidLoop_done (k + 1) hy]
    · rw [euclidLoop_more k hy]
      exact ih (h.step hy)

/-- The start on 0, where the loop does not run, has the coefficients of R114 (a) too. -/
theorem euclidLoop_coefficients (v : Word) (k : Nat) :
    residue (euclidLoop k (euclidStart v)).A * residue v = residue (euclidLoop k (euclidStart v)).X ∧
      residue (euclidLoop k (euclidStart v)).B * residue v = residue (euclidLoop k (euclidStart v)).Y := by
  by_cases hv : v = 0#32
  · subst hv
    rw [euclidLoop_done k rfl, residue_zero, mul_zero, mul_zero]
    exact ⟨residue_p33.symm, (residue_zero 32).symm⟩
  · have hinv := (euclidInvariant_start hv).iterate k
    exact ⟨hinv.coefficientX, hinv.coefficientY⟩

/-! ## The statements -/

/-- Settles O51: `powmod` takes powers of residues, and the exponents are those of the laws of powers. -/
theorem powmodExponentLaws : Obligations.PowmodExponentLaws := by
  unfold Obligations.PowmodExponentLaws
  have htoNat {e : Nat} (he : e < 2 ^ 64) : (BitVec.ofNat 64 e).toNat = e := Nat.mod_eq_of_lt he
  refine fun b e1 e2 => ⟨fun h => powmod_toNat_add ?sum, fun h1 h2 h => powmod_toNat_mul ?product⟩
  case sum => rw [htoNat h, htoNat (by omega), htoNat (by omega)]
  case product => rw [htoNat h, htoNat h1, htoNat h2]

/-- Settles O52: the order of every word but 0 divides 2^32 - 1. -/
theorem powmodFieldLaws : Obligations.PowmodFieldLaws := by
  unfold Obligations.PowmodFieldLaws
  exact ⟨fun b hb => ⟨powmod_groupOrder hb, mulmod_powmod_inverse hb, powmod_mod_groupOrder hb⟩, powmod_fieldOrder⟩

/-- Settles O53: the tests at the prime factors show the order, and below it the powers of x are distinct. -/
theorem generatorHasFullOrder : Obligations.GeneratorHasFullOrder := by
  unfold Obligations.GeneratorHasFullOrder
  exact ⟨powmod_two_groupOrder, powmod_fieldOrder 2#32, powmod_two_ne_one, by norm_num,
    fun _ hpos hk => powerOfX_ne_one hpos hk⟩

/-- Settles O54: the coefficients by `euclidLoop_coefficients`, and the degree by `deg_euclidStep_Y_lt`. -/
theorem euclidCoefficientsCarryThePair : Obligations.EuclidCoefficientsCarryThePair := by
  unfold Obligations.EuclidCoefficientsCarryThePair
  refine ⟨fun v k => ?_, fun e => deg_euclidStep_Y_lt⟩
  obtain ⟨hX, hY⟩ := euclidLoop_coefficients v k
  rw [← residue_mulmod] at hX hY
  refine ⟨?_, residue_injective hY⟩
  have hrem := divrem_p33_remainder (m := 33) le_rfl hX.symm
  rw [BitVec.setWidth_eq] at hrem
  rw [hrem, BitVec.setWidth_setWidth_of_le _ (by decide), BitVec.setWidth_eq]

/-- Settles O55: each law is one about inverses of residues, by `invmod_eq_some_iff`. -/
theorem invmodIsTheFieldInverse : Obligations.InvmodIsTheFieldInverse := by
  unfold Obligations.InvmodIsTheFieldInverse
  refine ⟨invmod_zero, invmod_eq_some_iff.2 (mulmod_one_left 1#32), fun v hv => ?inverse,
    fun a b ra rb ha hb => ?product, fun a b => eq_zero_of_mulmod_eq_zero⟩
  case inverse =>
    have hone := mulmod_powmod_inverse hv
    exact ⟨_, invmod_eq_some_iff.2 hone, hone, invmod_eq_some_iff.2 (by rw [mulmod_comm, hone]), rfl⟩
  case product =>
    rw [invmod_eq_some_iff] at ha hb ⊢
    rw [mulmod_assoc, mulmod_comm a b, ← mulmod_assoc rb, hb, mulmod_one_left, ha]

end Sys2Proof.Machine
end

-- ==== the other family: the digest in the field ====
section
/-! Bit reversal as a linear map, the byte step of the digest as a multiplication by x^8, and the settled statements
about digests as elements of the field. -/

namespace Sys2Proof.Machine

open Polynomial

/-! ## Bit reversal (R90, R92) -/

section
variable {w : Nat}

theorem revBits_revBits (v : BitVec w) : revBits (revBits v) = v :=
  BitVec.eq_of_getLsbD_eq fun i hi => by
    have hmirror : w - 1 - (w - 1 - i) = i := by omega
    rw [revBits_getLsbD _ hi, revBits_getLsbD _ (by omega), hmirror]

theorem revBits_xor (u v : BitVec w) : revBits (u ^^^ v) = revBits u ^^^ revBits v :=
  BitVec.eq_of_getLsbD_eq fun i hi => by
    rw [BitVec.getLsbD_xor, revBits_getLsbD _ hi, revBits_getLsbD _ hi, revBits_getLsbD _ hi, BitVec.getLsbD_xor]

end

theorem rev32_involutive : Function.Involutive rev32 := revBits_revBits

theorem rev32_xor (a b : Word) : rev32 (a ^^^ b) = rev32 a ^^^ rev32 b := revBits_xor a b

theorem rev8_rev8 (b : Byte) : rev8 (rev8 b) = b := revBits_revBits b

theorem rev8_xor (a b : Byte) : rev8 (a ^^^ b) = rev8 a ^^^ rev8 b := revBits_xor a b

/-- A shift right is a shift left of the reversal. -/
theorem rev32_shiftRight_one (s : Word) : rev32 (s >>> 1) = rev32 s <<< 1 :=
  BitVec.eq_of_getLsbD_eq fun i hi => by
    rw [rev32_getLsbD _ hi, BitVec.getLsbD_ushiftRight, BitVec.getLsbD_shiftLeft]
    by_cases hzero : i = 0
    · simp [hzero]
    · have hplace : 1 + (31 - i) = 31 - (i - 1) := by omega
      rw [rev32_getLsbD s (by omega), hplace]
      simp [hi, hzero]

/-- The low byte of a word is the top byte of its reversal. -/
theorem rev32_setWidth_byte : ∀ b : Byte, rev32 (b.setWidth 32) = (rev8 b).setWidth 32 <<< 24 := by decide +kernel

/-! ## Residues of shifted and appended vectors -/

/-- A shift by `n` that loses no bit multiplies by x^n. -/
theorem residue_shiftLeft {w n : Nat} {v : BitVec w} (h : ∀ i, w ≤ i + n → v.getLsbD i = false) :
    residue (v <<< n) = residue 2#32 ^ n * residue v := by
  rw [residue_two, residue, residue, toPoly_shiftLeft h, map_mul, map_pow, mul_comm]

theorem toPoly_append {w m : Nat} (u : BitVec w) (v : BitVec m) : toPoly (u ++ v) = toPoly u * X ^ m + toPoly v := by
  ext i
  rw [coeff_add, coeff_mul_X_pow', toPoly_coeff, toPoly_coeff, toPoly_coeff, BitVec.getLsbD_append]
  by_cases hi : i < m
  · simp [hi]
  · simp [hi, Nat.le_of_not_lt hi]

theorem residue_append {w m : Nat} (u : BitVec w) (v : BitVec m) :
    residue (u ++ v) = residue 2#32 ^ m * residue u + residue v := by
  rw [residue_two, residue, residue, residue, toPoly_append, map_add, map_mul, map_pow, mul_comm]

theorem residueRing_two_eq_zero : (2 : ResidueRing) = 0 := by
  have h := congrArg (AdjoinRoot.mk (toPoly Config.p33)) (CharTwo.two_eq_zero : (2 : (ZMod 2)[X]) = 0)
  rwa [map_ofNat, map_zero] at h

theorem residue_0x100 : residue 0x100#32 = residue 2#32 ^ 8 := by
  have hpower : powmod 2#32 8#64 = 0x100#32 := by decide
  rw [← hpower, residue_powmod]
  rfl

/-! ## The digest's steps (R80, R81) -/

/-- One inner step is a doubling of the reversed register. -/
theorem rev32_crcShift (s : Word) : rev32 (crcShift s) = double (rev32 s) := by
  have hgenerator : rev32 Config.gRefl = 0x04C11DB7#32 := by decide
  rw [double_eq, rev32_getLsbD s (by decide), crcShift]
  cases hbit : s.getLsbD 0 with
  | false => simp [rev32_shiftRight_one]
  | true => simp [rev32_xor, rev32_shiftRight_one, hgenerator]

theorem residue_rev32_crcShifts (n : Nat) (s : Word) :
    residue (rev32 (crcShifts n s)) = residue 2#32 ^ n * residue (rev32 s) := by
  induction n generalizing s with
  | zero => rw [crcShifts, pow_zero, one_mul]
  | succ n ih => rw [crcShifts, ih, rev32_crcShift, residue_double, pow_succ, mul_assoc]

/-- A byte step adds the reversed byte at the top and multiplies by x^8. -/
theorem residue_rev32_crcStep (s : Word) (b : Byte) :
    residue (rev32 (crcStep s b)) = residue 2#32 ^ 8 * (residue (rev32 s) + residue 2#32 ^ 24 * residue (rev8 b)) := by
  have htop : residue ((rev8 b).setWidth 32 <<< 24) = residue 2#32 ^ 24 * residue (rev8 b) := by
    rw [residue_shiftLeft fun i hi => ?_, residue_setWidth_of_le _ (by decide)]
    simp [BitVec.getLsbD_of_ge (rev8 b) i (by omega)]
  rw [crcStep, residue_rev32_crcShifts, rev32_xor, rev32_setWidth_byte, residue_xor, htop]

/-- Two registers fed the same bytes: their difference is multiplied by x^8 for each. -/
theorem residue_rev32_crcBytes_add (s s' : Word) (m : List Byte) :
    residue (rev32 (crcBytes s m)) + residue (rev32 (crcBytes s' m)) =
      residue 2#32 ^ (8 * m.length) * (residue (rev32 s) + residue (rev32 s')) := by
  induction m generalizing s s' with
  | nil => simp
  | cons b m ih =>
    rw [crcBytes_cons, crcBytes_cons, ih, residue_rev32_crcStep, residue_rev32_crcStep, List.length_cons]
    linear_combination
      residue 2#32 ^ (8 * m.length) * residue 2#32 ^ 32 * residue (rev8 b) * residueRing_two_eq_zero

/-! ## Four bytes -/

/-- The first four of a family of bytes, as a message. -/
def firstFour (f : Nat → Byte) : List Byte := [f 0, f 1, f 2, f 3]

/-- The word of four reversed bytes, the first at the top (R88). -/
def reversedWord (f : Nat → Byte) : Word := rev8 (f 0) ++ rev8 (f 1) ++ rev8 (f 2) ++ rev8 (f 3)

/-- Only the first four bytes are looked at. -/
theorem reversedWord_congr {f g : Nat → Byte} (h : ∀ i < 4, f i = g i) : reversedWord f = reversedWord g := by
  rw [reversedWord, reversedWord, h 0 (by decide), h 1 (by decide), h 2 (by decide), h 3 (by decide)]

theorem residue_reversedWord (f : Nat → Byte) :
    residue (reversedWord f) = residue 2#32 ^ 24 * residue (rev8 (f 0)) + residue 2#32 ^ 16 * residue (rev8 (f 1)) +
      residue 2#32 ^ 8 * residue (rev8 (f 2)) + residue (rev8 (f 3)) := by
  have happend : residue (reversedWord f) = residue (rev8 (f 0) ++ rev8 (f 1) ++ rev8 (f 2) ++ rev8 (f 3)) := rfl
  rw [happend, residue_append, residue_append, residue_append]
  ring

theorem residue_reversedWord_xor (f g : Nat → Byte) :
    residue (reversedWord fun i => f i ^^^ g i) = residue (reversedWord f) + residue (reversedWord g) := by
  simp only [residue_reversedWord, rev8_xor, residue_xor]
  ring

/-- The four patch bytes of a word make up the word (R124). -/
theorem reversedWord_patchByte (delta : Word) : reversedWord (patchByte delta) = delta := by
  simp only [reversedWord, patchByte, rev8_rev8]
  rw [BitVec.extractLsb'_append_extractLsb'_eq_extractLsb' (by rfl),
    BitVec.extractLsb'_append_extractLsb'_eq_extractLsb' (by rfl),
    BitVec.extractLsb'_append_extractLsb'_eq_extractLsb' (by rfl)]
  exact BitVec.extractLsb'_eq_self

/-- Four bytes add their reversed word and multiply by x^32. -/
theorem residue_rev32_crcBytes_four (s : Word) (f : Nat → Byte) :
    residue (rev32 (crcBytes s (firstFour f))) =
      residue 2#32 ^ 32 * (residue (rev32 s) + residue (reversedWord f)) := by
  simp only [firstFour, crcBytes_cons, crcBytes_nil, residue_rev32_crcStep, residue_reversedWord]
  ring

/-! ## Messages that differ in four bytes (R88) -/

/-- The bytes of a message from `o` on. -/
def bytesAt (m : List Byte) (o i : Nat) : Byte := m.getD (o + i) 0#8

theorem drop_eq_bytesAt_cons {m : List Byte} {o i : Nat} (h : o + i < m.length) :
    m.drop (o + i) = bytesAt m o i :: m.drop (o + i + 1) := by
  rw [List.drop_eq_getElem_cons h, bytesAt, List.getD_eq_getElem _ _ h]

theorem drop_eq_four_append_drop {m : List Byte} {o : Nat} (h : o + 4 ≤ m.length) :
    m.drop o = firstFour (bytesAt m o) ++ m.drop (o + 4) :=
  calc m.drop o
    _ = bytesAt m o 0 :: m.drop (o + 1) := drop_eq_bytesAt_cons (i := 0) (by omega)
    _ = bytesAt m o 0 :: bytesAt m o 1 :: m.drop (o + 2) := by rw [drop_eq_bytesAt_cons (by omega)]
    _ = bytesAt m o 0 :: bytesAt m o 1 :: bytesAt m o 2 :: m.drop (o + 3) := by rw [drop_eq_bytesAt_cons (by omega)]
    _ = firstFour (bytesAt m o) ++ m.drop (o + 4) := by rw [drop_eq_bytesAt_cons (by omega)]; rfl

/-- The register after a message, four of whose bytes are singled out. -/
theorem crcBytes_split (s : Word) {m : List Byte} {o : Nat} (h : o + 4 ≤ m.length) :
    crcBytes s m =
      crcBytes (crcBytes (crcBytes s (m.take o)) (firstFour (bytesAt m o))) (m.drop (o + 4)) := by
  rw [← crcBytes_append, ← drop_eq_four_append_drop h, ← crcBytes_append, List.take_append_drop]

section
variable {m m' : List Byte} {o : Nat}

/-- The difference of two registers after messages that differ in the four bytes at `o` only. -/
theorem residue_rev32_crcBytes_difference (s : Word) (hlen : m.length = m'.length) (ho : o + 4 ≤ m.length)
    (hsame : ∀ i, i < o ∨ o + 4 ≤ i → m[i]? = m'[i]?) :
    residue (rev32 (crcBytes s m)) + residue (rev32 (crcBytes s m')) =
      residue 2#32 ^ (8 * (m.length - o)) *
        residue (reversedWord fun i => bytesAt m o i ^^^ bytesAt m' o i) := by
  have htake : m'.take o = m.take o := List.ext_getElem? fun i => by
    by_cases hi : i < o
    · rw [List.getElem?_take_of_lt hi, List.getElem?_take_of_lt hi, hsame i (.inl hi)]
    · simp [hi]
  have hdrop : m'.drop (o + 4) = m.drop (o + 4) := List.ext_getElem? fun i => by
    rw [List.getElem?_drop, List.getElem?_drop, hsame _ (.inr (by omega))]
  have hcount : 8 * (m.length - o) = 8 * (m.drop (o + 4)).length + 32 := by
    rw [List.length_drop]
    omega
  rw [crcBytes_split s ho, crcBytes_split s (m := m') (hlen ▸ ho), htake, hdrop, residue_rev32_crcBytes_add,
    residue_rev32_crcBytes_four, residue_rev32_crcBytes_four, residue_reversedWord_xor, hcount, pow_add]
  linear_combination residue 2#32 ^ (8 * (m.drop (o + 4)).length) * residue 2#32 ^ 32 *
    residue (rev32 (crcBytes s (m.take o))) * residueRing_two_eq_zero

/-- The final inversion cancels in a difference (R81). -/
theorem residue_rev32_digest_difference (hlen : m.length = m'.length) (ho : o + 4 ≤ m.length)
    (hsame : ∀ i, i < o ∨ o + 4 ≤ i → m[i]? = m'[i]?) :
    residue (rev32 (digest m)) + residue (rev32 (digest m')) =
      residue 2#32 ^ (8 * (m.length - o)) *
        residue (reversedWord fun i => bytesAt m o i ^^^ bytesAt m' o i) := by
  rw [← residue_rev32_crcBytes_difference Config.crcInit hlen ho hsame, digest, digest, rev32_xor, rev32_xor,
    residue_xor, residue_xor]
  linear_combination residue (rev32 Config.crcXorOut) * residueRing_two_eq_zero

end

/-! ## A message for every digest -/

/-- Four bytes whose digest is `v`: x^-32 times the reversed register that is wanted, less the initial one. -/
def messageFor (v : Word) : List Byte :=
  firstFour (patchByte (mulmod (rev32 (v ^^^ Config.crcXorOut)) 0xCBF1ACDA#32 ^^^ rev32 Config.crcInit))

theorem digest_messageFor (v : Word) : digest (messageFor v) = v := by
  have hinverse : residue 2#32 ^ 32 * residue 0xCBF1ACDA#32 = 1 := by
    have hone : mulmod (powmod 2#32 32#64) 0xCBF1ACDA#32 = 1#32 := by decide +kernel
    rw [← residue_one (w := 32) (by decide), ← hone, residue_mulmod, residue_powmod]
    rfl
  have hregister : crcBytes Config.crcInit (messageFor v) = v ^^^ Config.crcXorOut := by
    refine rev32_involutive.injective (residue_injective ?_)
    rw [messageFor, residue_rev32_crcBytes_four, reversedWord_patchByte, residue_xor, residue_mulmod]
    linear_combination residue (rev32 (v ^^^ Config.crcXorOut)) * hinverse +
      residue 2#32 ^ 32 * residue (rev32 Config.crcInit) * residueRing_two_eq_zero
  rw [digest, hregister, BitVec.xor_assoc, BitVec.xor_self, BitVec.xor_zero]

/-! ## The statements -/

/-- Settles O40: the reversal's bits are the value's, and 1 times 1 shows that it does not multiply. -/
theorem rev32IsLinearInvolution : Obligations.Rev32IsLinearInvolution := by
  unfold Obligations.Rev32IsLinearInvolution
  exact ⟨rev32_involutive, rev32_involutive.bijective, rev32_xor, 1#32, 1#32, by decide +kernel⟩

/-- Settles O41: both sides have the same residue. -/
theorem crcStepMultipliesByX8 : Obligations.CrcStepMultipliesByX8 := by
  unfold Obligations.CrcStepMultipliesByX8
  intro s b
  refine residue_injective ?_
  rw [crcStep, residue_rev32_crcShifts, rev32_xor, rev32_setWidth_byte, residue_mulmod, residue_0x100, mul_comm]

/-- Settles O44: `messageFor v` is the message. -/
theorem everyWordIsADigest : Obligations.EveryWordIsADigest := by
  unfold Obligations.EveryWordIsADigest
  exact fun v => ⟨messageFor v, rfl, digest_messageFor v⟩

/-- Settles O45: the residues of both sides, by `residue_rev32_digest_difference`. -/
theorem digestDifferenceIsAlgebraic : Obligations.DigestDifferenceIsAlgebraic := by
  unfold Obligations.DigestDifferenceIsAlgebraic
  intro m m' o hlen ho hshort hsame e D
  have hexponent : (BitVec.ofNat 64 (8 * (m.length - o))).toNat = 8 * (m.length - o) :=
    Nat.mod_eq_of_lt (by omega)
  refine residue_injective ?_
  rw [residue_xor, residue_rev32_digest_difference hlen ho hsame, residue_mulmod, residue_powmod, hexponent, mul_comm]
  rfl

end Sys2Proof.Machine
end

-- ==== the other family: host sequences ====
section
/-! Lines that are all answered OKAY, as the block runs them, and the settled statements about the pseudo-commands. -/

namespace Sys2Proof.Machine

/-! ## Lines answered OKAY (R67) -/

/-- From `s` every one of the lines is answered OKAY, and they leave the block at `u`. -/
inductive AnsweredOkay : List Line → State → State → Prop where
  | nil (s : State) : AnsweredOkay [] s s
  | cons {l : Line} {ls : List Line} {s t u : State} (ht : handle (.bus (lineTransaction l)) s = .next t)
      (hokay : t.okay) (hrest : AnsweredOkay ls t u) : AnsweredOkay (l :: ls) s u

section
variable {ls : List Line} {s t u : State}

theorem AnsweredOkay.append {ms : List Line} (h : AnsweredOkay ls s t) (hrest : AnsweredOkay ms t u) :
    AnsweredOkay (ls ++ ms) s u := by
  induction h with
  | nil => exact hrest
  | cons ht hokay _ ih => exact .cons ht hokay (ih hrest)

/-- The run of the lines' events. -/
theorem AnsweredOkay.handleAll_eq (h : AnsweredOkay ls s u) : handleAll (lineEvents ls) s = .next u := by
  induction h with
  | nil => rfl
  | cons ht _ _ ih => exact (handleAll_cons_next ht _).trans ih

/-- Lines answered OKAY, and then a command, however it is answered. -/
theorem AnsweredOkay.handleAll_then_command {i : Instr} (h : AnsweredOkay ls s t) (hu : exec i t = .next u) :
    handleAll (lineEvents (ls ++ [.command i])) s = .next u := by
  induction h with
  | nil s => exact handleAll_cons_next ((handle_encode i s).trans hu) []
  | cons ht _ _ ih => exact (handleAll_cons_next ht _).trans (ih hu)

/-- A command answered OKAY. -/
theorem AnsweredOkay.command {i : Instr} (ht : exec i s = .next t) (hokay : t.response = writeResponse .okay)
    (hrest : AnsweredOkay ls t u) : AnsweredOkay (.command i :: ls) s u :=
  .cons ((handle_encode i s).trans ht) ⟨none, hokay⟩ hrest

theorem AnsweredOkay.writeOpa {v : Word} (hrest : AnsweredOkay ls ((s.setOpa v).setResponse (writeResponse .okay)) u) :
    AnsweredOkay (.write .opa v :: ls) s u :=
  .cons rfl ⟨none, rfl⟩ hrest

theorem AnsweredOkay.writeOpb {v : Word} (hrest : AnsweredOkay ls ((s.setOpb v).setResponse (writeResponse .okay)) u) :
    AnsweredOkay (.write .opb v :: ls) s u :=
  .cons rfl ⟨none, rfl⟩ hrest

theorem AnsweredOkay.read {r : Slot} {v : Word} (hv : s.readSlot r = some v)
    (hrest : AnsweredOkay ls (s.setResponse (readResponse .okay v)) u) : AnsweredOkay (.read r :: ls) s u :=
  .cons (handle_read_slot hv) ⟨some v, rfl⟩ hrest

end

/-! ## The pseudo-commands (R68) -/

section
variable {s : State}

/-- What a run of CRCBs leaves: no byte, no change. -/
def State.afterCrcBytes (s : State) (m : List Byte) : State :=
  if m = [] then s else (s.setCrcstate (crcBytes s.crcstate m)).setResponse (writeResponse .okay)

theorem State.afterCrcBytes_cons (s : State) (b : Byte) (m : List Byte) :
    s.afterCrcBytes (b :: m) =
      ((s.setCrcstate (crcStep s.crcstate b)).setResponse (writeResponse .okay)).afterCrcBytes m := by
  cases m <;> rfl

/-- The next answer hides whether there was a byte. -/
theorem State.afterCrcBytes_setResponse (s : State) (m : List Byte) (r : Option Response) :
    (s.afterCrcBytes m).setResponse r = (s.setCrcstate (crcBytes s.crcstate m)).setResponse r := by
  cases m <;> rfl

theorem State.afterCrcBytes_crcstate (s : State) (m : List Byte) :
    (s.afterCrcBytes m).crcstate = crcBytes s.crcstate m := by
  cases m <;> rfl

theorem answeredOkay_crcByteLines (hopen : s.err = 0#4) (m : List Byte) :
    AnsweredOkay (crcByteLines m) s (s.afterCrcBytes m) := by
  induction m generalizing s with
  | nil => exact .nil s
  | cons b m ih =>
    rw [State.afterCrcBytes_cons]
    exact .command (completes_crcb b s hopen trivial) rfl (ih hopen)

theorem answeredOkay_setExpLines (e : Exponent) :
    AnsweredOkay (setExpLines e) s (((s.setExpl (e.extractLsb' 0 32)).setExph (e.extractLsb' 32 32)).setResponse
      (writeResponse .okay)) :=
  .cons rfl ⟨none, rfl⟩ (.cons rfl ⟨none, rfl⟩ (.nil _))

/-- The two halves of an exponent, put together again (R23). -/
theorem exponent_append (e : Exponent) : e.extractLsb' 32 32 ++ e.extractLsb' 0 32 = e := by
  rw [BitVec.extractLsb'_append_extractLsb'_eq_extractLsb' (by rfl)]
  exact BitVec.extractLsb'_eq_self

theorem answeredOkay_bitrev (hopen : s.err = 0#4) :
    AnsweredOkay [.command .bitrev] s ((s.setRes0 (rev32 s.opa)).setResponse (writeResponse .okay)) :=
  .command (completes_bitrev s hopen trivial) rfl (.nil _)

theorem answeredOkay_crcresume (hopen : s.err = 0#4) (v : Word) :
    AnsweredOkay (expand (.crcresume v)) s
      (((s.setOpa v).setCrcstate (v ^^^ Config.crcXorOut)).setResponse (writeResponse .okay)) :=
  .writeOpa (.command (completes_crcload _ hopen trivial) rfl (.nil _))

theorem answeredOkay_mul (hopen : s.err = 0#4) (x y : Word) :
    AnsweredOkay (expand (.mul x y)) s
      ((((s.setOpa x).setOpb y).setRes0 (mulmod x y)).setResponse (writeResponse .okay)) :=
  .writeOpa (.writeOpb (.command (completes_mulmod _ hopen trivial) rfl (.nil _)))

theorem answeredOkay_pow (hopen : s.err = 0#4) (b : Word) (e : Exponent) :
    AnsweredOkay (expand (.pow b e)) s
      (((((s.setOpa b).setExpl (e.extractLsb' 0 32)).setExph (e.extractLsb' 32 32)).setRes0 (powmod b e)).setResponse
        (writeResponse .okay)) := by
  have hpower : powmod b e = powmod b (e.extractLsb' 32 32 ++ e.extractLsb' 0 32) := by rw [exponent_append]
  rw [hpower]
  exact .writeOpa ((answeredOkay_setExpLines e).append (.command (completes_powmod _ hopen trivial) rfl (.nil _)))

theorem answeredOkay_div (hopen : s.err = 0#4) (x : Word) {y : Word} (hy : y ≠ 0#32) :
    AnsweredOkay (expand (.div x y)) s
      (((((s.setOpa x).setOpb y).setRes0 (divrem x y).1).setRes1 (divrem x y).2).setResponse (writeResponse .okay)) :=
  .writeOpa (.writeOpb (.command (divrem_completes _ hopen hy) rfl (.nil _)))

theorem answeredOkay_inv (hopen : s.err = 0#4) {v r : Word} (hr : invmod v = some r) :
    AnsweredOkay (expand (.inv v)) s (((s.setOpa v).setRes0 r).setResponse (writeResponse .okay)) :=
  .writeOpa (.command (exec_invmod_some hopen hr) rfl (.nil _))

/-! ## The pseudo-commands that fault (R131, R132) -/

theorem handleAll_div_zero (hopen : s.err = 0#4) (x : Word) :
    handleAll (lineEvents (expand (.div x 0#32))) s =
      .next ((((s.setOpa x).setOpb 0#32).setErr 1#4).setResponse (writeResponse .error)) :=
  (AnsweredOkay.writeOpa (.writeOpb (.nil _))).handleAll_then_command (divrem_faults _ hopen rfl)

theorem handleAll_inv_none (hopen : s.err = 0#4) {v : Word} (hv : invmod v = none) :
    handleAll (lineEvents (expand (.inv v))) s =
      .next (((s.setOpa v).setErr 2#4).setResponse (writeResponse .error)) :=
  (AnsweredOkay.writeOpa (.nil _)).handleAll_then_command (exec_invmod_none hopen hv)

end

/-! ## The statements -/

/-- Settles O30: each pseudo-command's lines are answered OKAY one by one, but for the two that fault. -/
theorem pseudoCommandsLeaveTheirResult : Obligations.PseudoCommandsLeaveTheirResult := by
  unfold Obligations.PseudoCommandsLeaveTheirResult
  intro s hopen
  have hlow (e : Exponent) : e.setWidth 32 = e.extractLsb' 0 32 :=
    BitVec.eq_of_getLsbD_eq fun i hi => by simp [hi]
  have hhigh (e : Exponent) : (e >>> 32).setWidth 32 = e.extractLsb' 32 32 :=
    BitVec.eq_of_getLsbD_eq fun i hi => by simp [hi]
  refine ⟨fun x y => (answeredOkay_mul hopen x y).handleAll_eq, fun b e => ?pow,
    fun x y hy => (answeredOkay_div hopen x hy).handleAll_eq, handleAll_div_zero hopen,
    fun v r hr => (answeredOkay_inv hopen hr).handleAll_eq, fun v hv => handleAll_inv_none hopen hv, fun e => ?setexp,
    fun p hp => ?bitrev, fun v => (answeredOkay_crcresume hopen v).handleAll_eq,
    fun m => (answeredOkay_crcByteLines hopen m).handleAll_eq, fun text => ?crcstr⟩
  case pow =>
    rw [hlow, hhigh]
    exact (answeredOkay_pow hopen b e).handleAll_eq
  case setexp =>
    rw [hlow, hhigh]
    exact (answeredOkay_setExpLines e).handleAll_eq
  case bitrev =>
    simp only [List.mem_cons, List.not_mem_nil, or_false] at hp
    rcases hp with rfl | rfl
    · exact (answeredOkay_bitrev hopen).handleAll_eq
    · exact (answeredOkay_bitrev hopen).handleAll_eq
  case crcstr =>
    have hrun := (answeredOkay_crcByteLines hopen (text.map fun c => c.setWidth 8)).handleAll_eq
    simp only [State.afterCrcBytes, List.map_eq_nil_iff] at hrun
    simp only [BitVec.ofNat_toNat]
    exact hrun

/-- Settles O42: the resumed register is that of the first chunk, and the CRCBs go on from it. -/
theorem chunkedDigestEqualsWhole : Obligations.ChunkedDigestEqualsWhole := by
  unfold Obligations.ChunkedDigestEqualsWhole
  refine ⟨crcBytes_append _, fun m1 m2 s hopen => ?_⟩
  have hresume : digest m1 ^^^ Config.crcXorOut = crcBytes Config.crcInit m1 := by
    rw [digest, BitVec.xor_assoc, BitVec.xor_self, BitVec.xor_zero]
  have hload := answeredOkay_crcresume hopen (digest m1)
  rw [hresume] at hload
  have hbytes := hload.append (answeredOkay_crcByteLines (by exact hopen) m2)
  have hrun := (hbytes.append (.read (r := .crcdigest) rfl (.nil _))).handleAll_eq
  rw [State.afterCrcBytes_setResponse, State.crcdigest, State.afterCrcBytes_crcstate, State.setResponse_crcstate,
    State.setCrcstate_crcstate, ← crcBytes_append] at hrun
  exact hrun

end Sys2Proof.Machine
end

-- ==== the other family: the forger's sessions ====
section
/-! What the parts of a forge answer on a block out of lockout, and that a session's block is always what its lines make
of the first one. -/

namespace Sys2Proof.Machine

/-! ## A session after lines answered OKAY -/

/-- The session after more lines, which left the block at `t`. -/
def Session.afterLines (h : Session) (ls : List Line) (t : State) : Session := { block := t, issued := h.issued ++ ls }

@[simp] theorem Session.afterLines_block (h : Session) (ls : List Line) (t : State) : (h.afterLines ls t).block = t :=
  rfl

theorem Session.after_eq_afterLines (h : Session) (l : Line) (t : State) : h.after l t = h.afterLines [l] t := rfl

@[simp] theorem Session.afterLines_afterLines (h : Session) (ls ms : List Line) (t u : State) :
    (h.afterLines ls t).afterLines ms u = h.afterLines (ls ++ ms) u := by
  simp [Session.afterLines]

theorem Session.afterLines_nil (h : Session) : h.afterLines [] h.block = h := by
  simp [Session.afterLines]

/-- Lines answered OKAY, as the host issues them. -/
theorem AnsweredOkay.issueAll_eq {ls : List Line} {s u : State} (hls : AnsweredOkay ls s u) {h : Session}
    (hs : h.block = s) : issueAll ls h = .ok ((), h.afterLines ls u) := by
  induction hls generalizing h with
  | nil s =>
    subst hs
    rw [issueAll_nil, Session.afterLines_nil]
  | cons ht hokay _ ih =>
    subst hs
    obtain ⟨v, hv⟩ := hokay
    rw [issueAll_cons (issue_okay ht hv), ih (Session.after_block _ _ _), Session.after_eq_afterLines,
      Session.afterLines_afterLines, List.singleton_append]

/-- Lines answered OKAY and a read: the value read, and the session after all of them. -/
theorem AnsweredOkay.issueThenFetch_eq {ls : List Line} {h : Session} {u : State} (hls : AnsweredOkay ls h.block u)
    {r : Slot} {v : Word} (hv : u.readSlot r = some v) :
    issueThenFetch ls r h = .ok (v, h.afterLines (ls ++ [.read r]) (u.setResponse (readResponse .okay v))) := by
  rw [issueThenFetch, hls.issueAll_eq rfl, andThen_ok, fetch_okay hv, Session.after_eq_afterLines,
    Session.afterLines_afterLines]
  rfl

/-! ## The parts of a forge (R123) -/

/-- The block after a pass over the bytes `m` and the read of their digest. -/
def State.afterDigest (s : State) (m : List Byte) : State :=
  (s.setCrcstate (crcBytes Config.crcInit m)).setResponse (readResponse .okay (digest m))

/-- The block after one BITREV of `v` and the read of its result. -/
def State.afterBitrev (s : State) (v : Word) : State :=
  ((s.setOpa v).setRes0 (rev32 v)).setResponse (readResponse .okay (rev32 v))

/-- The block after `POW b, e` and the read of its result. -/
def State.afterPow (s : State) (b : Word) (e : Exponent) : State :=
  ((((s.setOpa b).setExpl (e.extractLsb' 0 32)).setExph (e.extractLsb' 32 32)).setRes0 (powmod b e)).setResponse
    (readResponse .okay (powmod b e))

/-- The block after `INV v`, which found `r`, and the read of it. -/
def State.afterInv (s : State) (v r : Word) : State :=
  ((s.setOpa v).setRes0 r).setResponse (readResponse .okay r)

/-- The block after `MUL x, y` and the read of its result. -/
def State.afterMul (s : State) (x y : Word) : State :=
  (((s.setOpa x).setOpb y).setRes0 (mulmod x y)).setResponse (readResponse .okay (mulmod x y))

/-- The lines of a pass over the bytes `m`. -/
def passLines (m : List Byte) : List Line := .command .crcinit :: crcByteLines m ++ [.read .crcdigest]

/-- The lines of one reversal. -/
def reversalLines (v : Word) : List Line := [.write .opa v, .command .bitrev, .read .res0]

section
variable {h : Session} (hopen : h.block.err = 0#4)
include hopen

theorem storeDigest_okay (m : List Byte) :
    storeDigest m h = .ok (digest m, h.afterLines (passLines m) (h.block.afterDigest m)) := by
  have hls : AnsweredOkay (.command .crcinit :: crcByteLines m) h.block _ :=
    .command (completes_crcinit _ hopen trivial) rfl (answeredOkay_crcByteLines (by exact hopen) m)
  have hdigest : (State.afterCrcBytes ((h.block.setCrcstate Config.crcInit).setResponse (writeResponse .okay))
      m).readSlot .crcdigest = some (digest m) := by
    rw [State.readSlot, State.crcdigest, State.afterCrcBytes_crcstate]
    rfl
  have hrun := hls.issueThenFetch_eq hdigest
  rw [State.afterCrcBytes_setResponse] at hrun
  exact hrun

theorem bitrevOf_okay (v : Word) :
    bitrevOf v h = .ok (rev32 v, h.afterLines (reversalLines v) (h.block.afterBitrev v)) :=
  (AnsweredOkay.writeOpa (answeredOkay_bitrev (by exact hopen))).issueThenFetch_eq rfl

theorem pow_okay (b : Word) (e : Exponent) :
    issueThenFetch (expand (.pow b e)) .res0 h =
      .ok (powmod b e, h.afterLines (expand (.pow b e) ++ [.read .res0]) (h.block.afterPow b e)) :=
  (answeredOkay_pow hopen b e).issueThenFetch_eq rfl

theorem inverseOf_okay {v r : Word} (hr : invmod v = some r) :
    inverseOf v h = .ok (r, h.afterLines (expand (.inv v) ++ [.read .res0]) (h.block.afterInv v r)) := by
  have hrun := (answeredOkay_inv hopen hr).issueThenFetch_eq (h := h) (r := .res0) rfl
  rw [inverseOf, hrun]
  rfl

theorem mul_okay (x y : Word) :
    issueThenFetch (expand (.mul x y)) .res0 h =
      .ok (mulmod x y, h.afterLines (expand (.mul x y) ++ [.read .res0]) (h.block.afterMul x y)) :=
  (answeredOkay_mul hopen x y).issueThenFetch_eq rfl

end

/-! ## A session's block is what its lines make of the first one -/

/-- The lines recorded so far, run from `s`, leave the block where the session has it. -/
def Session.tracks (h : Session) (s : State) : Prop := handleAll (lineEvents h.issued) s = .next h.block

/-- The same of a forge that has ended. -/
def ForgeEnd.tracks (e : ForgeEnd) (s : State) : Prop := handleAll (lineEvents e.issued) s = .next e.block

/-- Where a host sequence stands, whether it went on or failed. -/
def sessionOf {α : Type} (r : HostRun α) : Session :=
  match r with
  | .ok (_, k) => k
  | .error (_, k) => k

theorem Session.tracks_start (s : State) : Session.tracks { block := s, issued := [] } s := rfl

section
variable {s : State} {h : Session} (hs : h.tracks s)
include hs

theorem Session.tracks_after {l : Line} {t : State} (ht : handle (.bus (lineTransaction l)) h.block = .next t) :
    (h.after l t).tracks s := by
  have hstart : Session.continuesBy { block := s, issued := [] } h.issued h := ⟨rfl, hs⟩
  have hline : h.continuesBy [l] (h.after l t) := ⟨rfl, handleAll_cons_next ht []⟩
  exact (Session.continuesBy_append hstart hline).2

theorem tracks_issue (l : Line) : (sessionOf (issue l h)).tracks s := by
  obtain ⟨t, ht⟩ := handle_total (.bus (lineTransaction l)) h.block
  have htransact : transact (lineTransaction l) h.block = .next t := ht
  simp only [issue, htransact]
  split
  · exact Session.tracks_after hs ht
  · exact Session.tracks_after hs ht

theorem tracks_fetch (r : Slot) : (sessionOf (fetch r h)).tracks s := by
  have hread := tracks_issue hs (.read r)
  unfold fetch
  split
  next heq => rwa [heq] at hread
  next heq => rwa [heq] at hread
  next heq => rwa [heq] at hread

end

section
variable {s : State}

/-- A result, rewritten as what it is known to have ended in. -/
theorem tracks_of_eq {α : Type} {r r' : HostRun α} (heq : r = r') (hr : (sessionOf r).tracks s) :
    (sessionOf r').tracks s :=
  heq ▸ hr

theorem tracks_andThen {α β : Type} {r : HostRun α} {f : α → Session → HostRun β} (hr : (sessionOf r).tracks s)
    (hf : ∀ v (k : Session), k.tracks s → (sessionOf (f v k)).tracks s) : (sessionOf (andThen r f)).tracks s := by
  cases r with
  | ok p => exact hf p.1 p.2 hr
  | error e => exact hr

theorem tracks_issueAll (ls : List Line) {h : Session} (hs : h.tracks s) : (sessionOf (issueAll ls h)).tracks s := by
  induction ls generalizing h with
  | nil => exact hs
  | cons l ls ih => exact tracks_andThen (tracks_issue hs l) fun _ _ hk => ih hk

variable {h : Session} (hs : h.tracks s)
include hs

theorem tracks_issueThenFetch (ls : List Line) (r : Slot) : (sessionOf (issueThenFetch ls r h)).tracks s :=
  tracks_andThen (tracks_issueAll ls hs) fun _ _ hk => tracks_fetch hk r

theorem tracks_inverseOf (v : Word) : (sessionOf (inverseOf v h)).tracks s := by
  have hrun := tracks_issueThenFetch hs (expand (.inv v)) .res0
  unfold inverseOf
  split
  next heq => rwa [heq] at hrun
  next heq => rwa [heq] at hrun

theorem tracks_forgeDelta (store : List Byte) (o : Nat) (T : Word) : (sessionOf (forgeDelta store o T h)).tracks s :=
  tracks_andThen (tracks_issueThenFetch hs _ _) fun _ _ h1 =>
  tracks_andThen (tracks_issueThenFetch h1 _ _) fun _ _ h2 =>
  tracks_andThen (tracks_issueThenFetch h2 _ _) fun _ _ h3 =>
  tracks_andThen (tracks_issueThenFetch h3 _ _) fun _ _ h4 =>
  tracks_andThen (tracks_inverseOf h4 _) fun _ _ h5 =>
  tracks_issueThenFetch h5 _ _

end

/-- However a forge ends, the block is what the recorded lines make of the one it began with. -/
theorem tracks_forge (restore : Bool) (store : List Byte) (o : Nat) (T : Word) (s : State) :
    (forge restore store o T s).tracks s := by
  have hdelta := tracks_forgeDelta (Session.tracks_start s) store o T
  unfold forge
  dsimp only
  split
  next => exact Session.tracks_start s
  next =>
    split
    next heq => exact tracks_of_eq heq hdelta
    next delta h1 heq =>
      have hdelta := tracks_of_eq heq hdelta
      have hreversed : (sessionOf (bitrevOf delta h1)).tracks s := tracks_issueThenFetch hdelta _ _
      split
      next => exact hdelta
      next =>
        split
        next heq => exact tracks_of_eq heq hreversed
        next reversed h2 heq =>
          have hreversed := tracks_of_eq heq hreversed
          have hverified (m : List Byte) : (sessionOf (storeDigest m h2)).tracks s :=
            tracks_issueThenFetch hreversed _ _
          split
          next heq => exact tracks_of_eq heq (hverified _)
          next heq =>
            have hend := tracks_of_eq heq (hverified _)
            split
            next => exact hend
            next => exact hend

end Sys2Proof.Machine
end

-- ==== the other family: the forge ====
section
/-! The patch bytes, the patched store and its digest, the forge that succeeds, and the settled statements about
forging. -/

namespace Sys2Proof.Machine

/-! ## The patch bytes (R124) -/

/-- R124: the two forms of a patch byte agree. -/
theorem patchByte_eq_extract (delta : Word) {i : Nat} (hi : i < 4) :
    patchByte delta i = (rev32 delta).extractLsb' (8 * i) 8 :=
  BitVec.eq_of_getLsbD_eq fun j hj => by
    have hplace : 24 - 8 * i + (8 - 1 - j) = 31 - (8 * i + j) := by omega
    have hinside : 8 - 1 - j < 8 := by omega
    rw [patchByte, rev8, revBits_getLsbD _ hj, BitVec.getLsbD_extractLsb', BitVec.getLsbD_extractLsb',
      rev32_getLsbD _ (by omega), hplace]
    simp [hj, hinside]

theorem setWidth_shiftRight_eq_extract (v : Word) (n : Nat) : (v >>> n).setWidth 8 = v.extractLsb' n 8 :=
  BitVec.eq_of_getLsbD_eq fun i hi => by simp [hi]

theorem patchBytes_getElem? (reversed : Word) (old : List Byte) (i : Nat) :
    (patchBytes reversed old)[i]? = old[i]?.map (· ^^^ patchByteOfRes0 reversed i) := by
  rw [patchBytes, List.getElem?_mapIdx]

@[simp] theorem patchBytes_length (reversed : Word) (old : List Byte) :
    (patchBytes reversed old).length = old.length := by
  simp [patchBytes]

/-- Nothing to add changes no byte. -/
theorem patchBytes_zero (old : List Byte) : patchBytes 0#32 old = old :=
  List.ext_getElem? fun i => by
    have hbyte : patchByteOfRes0 0#32 i = 0#8 := by simp [patchByteOfRes0]
    rw [patchBytes_getElem?, hbyte]
    simp

/-! ## The patched store (R123 steps 7 to 9) -/

/-- The store with the four bytes at `o` patched by `delta'`. -/
def patchedStore (store : List Byte) (o : Nat) (delta : Word) : List Byte :=
  writeBytes store o (patchBytes (rev32 delta) ((store.drop o).take 4))

section
variable {store bs : List Byte} {o i : Nat}

theorem writeBytes_before (bs : List Byte) (ho : o ≤ store.length) (hi : i < o) :
    (writeBytes store o bs)[i]? = store[i]? := by
  rw [writeBytes, List.append_assoc, List.getElem?_append_left (by rw [List.length_take]; omega),
    List.getElem?_take_of_lt hi]

theorem writeBytes_inside (ho : o ≤ store.length) (hi : i < bs.length) : (writeBytes store o bs)[o + i]? = bs[i]? := by
  have htake : (store.take o).length = o := List.length_take_of_le ho
  rw [writeBytes, List.append_assoc, List.getElem?_append_right (by omega), htake, Nat.add_sub_cancel_left,
    List.getElem?_append_left hi]

theorem writeBytes_behind (ho : o ≤ store.length) (hi : o + bs.length ≤ i) :
    (writeBytes store o bs)[i]? = store[i]? := by
  have hlength : (store.take o ++ bs).length = o + bs.length := by
    rw [List.length_append, List.length_take_of_le ho]
  rw [writeBytes, List.getElem?_append_right (by omega), hlength, List.getElem?_drop, Nat.add_sub_cancel' hi]

end

section
variable {store : List Byte} {o : Nat} (ho : o + 4 ≤ store.length)
include ho

theorem old_length : ((store.drop o).take 4).length = 4 := by
  rw [List.length_take, List.length_drop]
  omega

theorem patchedStore_length (delta : Word) : (patchedStore store o delta).length = store.length := by
  simp only [patchedStore, writeBytes, List.length_append, List.length_take, List.length_drop, patchBytes_length]
  omega

/-- The bytes outside the four stay. -/
theorem patchedStore_outside (delta : Word) {i : Nat} (hi : i < o ∨ o + 4 ≤ i) :
    (patchedStore store o delta)[i]? = store[i]? := by
  have hfour : (patchBytes (rev32 delta) ((store.drop o).take 4)).length = 4 :=
    (patchBytes_length _ _).trans (old_length ho)
  rcases hi with hi | hi
  · exact writeBytes_before _ (by omega) hi
  · exact writeBytes_behind (by omega) (by omega)

/-- The four bytes take the patch bytes. -/
theorem bytesAt_patchedStore (delta : Word) {i : Nat} (hi : i < 4) :
    bytesAt (patchedStore store o delta) o i = bytesAt store o i ^^^ patchByte delta i := by
  have hfour : (patchBytes (rev32 delta) ((store.drop o).take 4)).length = 4 :=
    (patchBytes_length _ _).trans (old_length ho)
  have hold : ((store.drop o).take 4)[i]? = some (bytesAt store o i) := by
    rw [List.getElem?_take_of_lt hi, List.getElem?_drop, bytesAt, List.getD_eq_getElem _ _ (by omega),
      List.getElem?_eq_getElem]
  have hnew : (patchedStore store o delta)[o + i]? = some (bytesAt store o i ^^^ patchByte delta i) := by
    rw [patchedStore, writeBytes_inside (by omega) (by omega), patchBytes_getElem?, hold, patchByte_eq_extract delta hi]
    rfl
  rw [bytesAt, List.getD_eq_getElem?_getD, hnew, Option.getD_some]

theorem patchedStore_zero : patchedStore store o 0#32 = store := by
  have hreversed : rev32 0#32 = 0#32 := by decide
  rw [patchedStore, hreversed, patchBytes_zero, writeBytes, old_length ho, List.append_assoc, ← List.drop_drop,
    List.take_append_drop, List.take_append_drop]

/-- R122: patching adds `x^(8 (L - o)) * delta'` to the reversed digest. -/
theorem residue_rev32_digest_patchedStore (delta : Word) :
    residue (rev32 (digest store)) + residue (rev32 (digest (patchedStore store o delta))) =
      residue 2#32 ^ (8 * (store.length - o)) * residue delta := by
  rw [residue_rev32_digest_difference (patchedStore_length ho delta).symm ho fun i hi =>
    (patchedStore_outside ho delta hi).symm]
  have hword : reversedWord (fun i => bytesAt store o i ^^^ bytesAt (patchedStore store o delta) o i) = delta := by
    refine (reversedWord_congr fun i hi => ?_).trans (reversedWord_patchByte delta)
    rw [bytesAt_patchedStore ho delta hi, ← BitVec.xor_assoc, BitVec.xor_self, BitVec.zero_xor]
  rw [hword]

end

/-! ## The forged digest (R122, R123) -/

theorem forgeExponent_toNat {len o : Nat} (h : (len - o) * 8 < 2 ^ 64) :
    (forgeExponent len o).toNat = (len - o) * 8 := by
  rw [forgeExponent, if_pos h]
  exact Nat.mod_eq_of_lt h

/-- The reduced exponent names the same power of x (log 10). -/
theorem residue_powmod_forgeExponent (len o : Nat) :
    residue (powmod 2#32 (forgeExponent len o)) = residue 2#32 ^ (8 * (len - o)) := by
  rw [residue_powmod, Nat.mul_comm 8]
  by_cases h : (len - o) * 8 < 2 ^ 64
  · rw [forgeExponent_toNat h]
  · have hreduced : (forgeExponent len o).toNat = (len - o) * 8 % 4294967295 := by
      rw [forgeExponent, if_neg h]
      exact Nat.mod_eq_of_lt ((Nat.mod_lt _ (by norm_num)).trans (by norm_num))
    rw [hreduced, ← pow_eq_pow_mod _ (residue_pow_groupOrder (by decide))]

/-- What the forge adds to the reversed digest, before it divides by the power of x (R123 step 3). -/
def forgeDifference (store : List Byte) (T : Word) : Word := rev32 (digest store) ^^^ rev32 T

/-- `delta'`, where `f` is the inverse of the power of x (R123 step 6). -/
def forgedDelta (store : List Byte) (T f : Word) : Word := mulmod f (forgeDifference store T)

/-- R122: the patched store has the digest desired. -/
theorem digest_forged {store : List Byte} {o : Nat} (ho : o + 4 ≤ store.length) (T : Word) {f : Word}
    (hf : invmod (powmod 2#32 (forgeExponent store.length o)) = some f) :
    digest (patchedStore store o (forgedDelta store T f)) = T := by
  have hone := congrArg residue (invmod_eq_some_iff.1 hf)
  rw [residue_mulmod, residue_powmod_forgeExponent, residue_one (by decide)] at hone
  have hpatch := residue_rev32_digest_patchedStore ho (forgedDelta store T f)
  have hdifference : residue (forgeDifference store T) = residue (rev32 (digest store)) + residue (rev32 T) :=
    residue_xor _ _
  have hforged : residue (forgedDelta store T f) = residue f * residue (forgeDifference store T) := residue_mulmod _ _
  rw [hforged, hdifference] at hpatch
  refine rev32_involutive.injective (residue_injective ?_)
  linear_combination hpatch + (residue (rev32 (digest store)) + residue (rev32 T)) * hone

/-! ## The forge that succeeds (R123) -/

/-- The lines of steps 2 to 6. -/
def deltaLines (store : List Byte) (o : Nat) (T f : Word) : List Line :=
  passLines store ++ reversalLines (digest store) ++ reversalLines T ++
    expand (.pow 2#32 (forgeExponent store.length o)) ++ [.read .res0] ++
    expand (.inv (powmod 2#32 (forgeExponent store.length o))) ++ [.read .res0] ++
    expand (.mul f (forgeDifference store T)) ++ [.read .res0]

/-- The block after steps 2 to 6. -/
def State.afterDelta (s : State) (store : List Byte) (o : Nat) (T f : Word) : State :=
  (((((s.afterDigest store).afterBitrev (digest store)).afterBitrev T).afterPow 2#32
    (forgeExponent store.length o)).afterInv (powmod 2#32 (forgeExponent store.length o)) f).afterMul f
    (forgeDifference store T)

section
variable {store : List Byte} {o : Nat} {T f : Word}
  (hf : invmod (powmod 2#32 (forgeExponent store.length o)) = some f)
include hf

theorem forgeDelta_okay {h : Session} (hopen : h.block.err = 0#4) :
    forgeDelta store o T h =
      .ok (forgedDelta store T f, h.afterLines (deltaLines store o T f) (h.block.afterDelta store o T f)) := by
  rw [forgeDelta, storeDigest_okay hopen, andThen_ok, bitrevOf_okay (by exact hopen), andThen_ok,
    bitrevOf_okay (by exact hopen), andThen_ok, pow_okay (by exact hopen), andThen_ok,
    inverseOf_okay (by exact hopen) hf, andThen_ok]
  refine (mul_okay (by exact hopen) _ _).trans ?_
  simp [deltaLines, State.afterDelta, forgedDelta, forgeDifference]

/-- R123: out of lockout and inside the store the forge runs through. -/
theorem forge_okay (restore : Bool) (ho : o + 4 ≤ store.length) {s : State} (hopen : s.err = 0#4) :
    forge restore store o T s =
      { store := patchedStore store o (forgedDelta store T f)
        block := ((s.afterDelta store o T f).afterBitrev (forgedDelta store T f)).afterDigest
          (patchedStore store o (forgedDelta store T f))
        issued := deltaLines store o T f ++ reversalLines (forgedDelta store T f) ++
          passLines (patchedStore store o (forgedDelta store T f))
        failure := none } := by
  have hinside : ¬ o + 4 > store.length := by omega
  have hread : ¬ ((store.drop o).take 4).length < 4 := by rw [old_length ho]; omega
  have hdelta := forgeDelta_okay (T := T) hf (h := { block := s, issued := [] }) hopen
  have hreversed := bitrevOf_okay (h := Session.afterLines { block := s, issued := [] } (deltaLines store o T f)
    (s.afterDelta store o T f)) hopen (forgedDelta store T f)
  have hverified := storeDigest_okay (h := Session.afterLines { block := s, issued := [] }
    (deltaLines store o T f ++ reversalLines (forgedDelta store T f))
    ((s.afterDelta store o T f).afterBitrev (forgedDelta store T f))) hopen
    (patchedStore store o (forgedDelta store T f))
  have hdigest := digest_forged ho T hf
  rw [Session.afterLines_afterLines, Session.afterLines_block] at hreversed
  rw [Session.afterLines_afterLines, Session.afterLines_block] at hverified
  rw [patchedStore] at hverified hdigest
  unfold forge
  simp only [if_neg hinside, hdelta, if_neg hread, hreversed, hverified, hdigest, if_true]
  rfl

end

/-! ## The statements -/

/-- The power of x that is inverted is not 0, so the forge finds an inverse (R123 step 5). -/
theorem exists_forge_inverse (store : List Byte) (o : Nat) :
    ∃ f, invmod (powmod 2#32 (forgeExponent store.length o)) = some f := by
  obtain ⟨f, hf, -⟩ := exists_invmod_eq_some (powmod_two_ne_zero (forgeExponent store.length o))
  exact ⟨f, hf⟩

/-- Settles O56: the bytes by `patchByte_eq_extract`, and the reversal on the block by `bitrevOf_okay`. -/
theorem patchBytesAreReversedWordLowFirst : Obligations.PatchBytesAreReversedWordLowFirst := by
  unfold Obligations.PatchBytesAreReversedWordLowFirst
  intro delta i hi
  refine ⟨patchByte_eq_extract delta hi, ?_, patchByte_eq_extract delta hi, fun old => ?_,
    fun h hopen => bitrevOf_okay hopen delta⟩
  · rw [setWidth_shiftRight_eq_extract, patchByte]
  · rw [patchBytes_getElem?, patchByte_eq_extract delta hi]
    rfl

/-- Settles O57: the forge runs through by `forge_okay`, and the patched store has the digest by `digest_forged`. -/
theorem forgeReachesEveryTarget : Obligations.ForgeReachesEveryTarget := by
  unfold Obligations.ForgeReachesEveryTarget
  intro restore store o T s hopen ho
  obtain ⟨f, hf⟩ := exists_forge_inverse store o
  rw [forge_okay hf restore ho hopen]
  exact ⟨rfl, digest_forged ho T hf, patchedStore_length ho _, fun i hi => patchedStore_outside ho _ hi, hopen⟩

/-- Settles O58: past the end the first test ends the forge; to the store's own digest there is nothing to add. -/
theorem forgeAtTheEdges : Obligations.ForgeAtTheEdges := by
  unfold Obligations.ForgeAtTheEdges
  refine ⟨fun restore store o T s hshort => if_pos hshort, fun restore store o s hopen ho => ?own⟩
  case own =>
    obtain ⟨f, hf⟩ := exists_forge_inverse store o
    have hnothing : forgedDelta store (digest store) f = 0#32 := by
      rw [forgedDelta, forgeDifference, BitVec.xor_self, mulmod_zero_right]
    rw [forge_okay hf restore ho hopen, hnothing]
    exact patchedStore_zero ho

/-- Settles O59: the lines and the block's end by `forge_okay`; that the block is what the lines make of it by
`tracks_forge`. -/
theorem forgeIssuesTheListedCommands : Obligations.ForgeIssuesTheListedCommands := by
  unfold Obligations.ForgeIssuesTheListedCommands
  refine ⟨fun len o h => forgeExponent_toNat h, fun restore store o T s => tracks_forge restore store o T s,
    fun restore store o T f s hopen ho => ?_⟩
  intro p delta delta' new pass reversal hf
  rw [forge_okay hf restore ho hopen]
  exact ⟨rfl, rfl, rfl, rfl⟩

end Sys2Proof.Machine
end
